-- ==== Sys2Proof/Word.lean ====
section
/-! DEFINITION. The two word types of the CORE (00_scope.md R5: XLEN8 = 8, ALEN = 16, CYCW = 64). -/

namespace Sys2Proof

/-- A general register, a memory byte, an instruction byte (R5, XLEN8). -/
abbrev Byte := BitVec 8

/-- An address, the pc, the sp, a register pair, a 16-bit datum (R5, ALEN). -/
abbrev Word := BitVec 16

/-- The last-instruction cycle counter (R5, CYCW). -/
abbrev CycleCount := BitVec 64

end Sys2Proof
end

