-- ==== Sys2Proof/Config.lean ====
section
/-! DEFINITION. What whoever builds or starts the machine fixes (00_scope.md R5), and the free values.
The other two parameters of R5 stand where they are used: `OPMAP` is `opmap` of Decode.lean, `CYCLES` is
the table of Machine/Timing.lean. -/

namespace Sys2Proof.Config

/-- FREE VALUE, no body: byte `i` of the boot ROM image, where the state lists no byte of it. The spec gives
`BOOT_ROM` no content and no default (00_scope.md R5, 70_reset_and_hazards.md R247, 92 D18). Log entry 6. -/
opaque bootRom : Nat → Byte

/-- FREE VALUE, no body: byte `i` of high RAM as the MMU is constructed, `HRAM_INIT[i]`. The spec does not
state it and says not to assume zero (10_state.md R33, 92 D10, 93 U4). Log entry 7. -/
opaque hramInit : Nat → Byte

/-- The two readings of what XOR A does to N, H and C (00_scope.md R5, `XOR_A_NHC`). -/
inductive XorANHC where
  | retain
  | clear
  deriving DecidableEq, Repr

/-- `XOR_A_NHC`, at the value R5 gives for this hardware. Log entry 4. -/
def xorANHC : XorANHC := .retain

/-- `MODEL_WLOG`, at the value R5 gives for this hardware: the diagnostic trace is modelled. Log entry 5. -/
def modelWlog : Bool := true

end Sys2Proof.Config
end

