-- ==== Sys2Proof/Machine/Library.lean ====
section
/-! DEFINITION. The address/word library (20_memory.md section 1): pure, total, no state. -/

namespace Sys2Proof.Machine

/-- R40: `offset` is two's-complement, the sum wraps at 16 bits. -/
def addSignedOffset (base : Word) (offset : Byte) : Word := base + offset.signExtend 16

/-- R41: `offset` is unsigned, the sum wraps at 16 bits. -/
def addUnsignedOffset (base : Word) (offset : Byte) : Word := base + offset.zeroExtend 16

/-- R42: the first argument is the byte that comes first in memory. -/
def wordFromBytes (low high : Byte) : Word := high ++ low

/-- R43: bits 15:8 of a word. -/
def highByte (w : Word) : Byte := w.extractLsb' 8 8

/-- R43: bits 7:0 of a word. -/
def lowByte (w : Word) : Byte := w.extractLsb' 0 8

/-- R43: the result lists the high byte first. -/
def wordToBytes (w : Word) : Byte × Byte := (highByte w, lowByte w)

end Sys2Proof.Machine
end

