-- ==== Sys2Proof/Syntax.lean ====
section
/-! DEFINITION. The instruction set as syntax: the 46 instructions of 30_encoding.md R86, their lengths (R81),
and the shape of an opcode map (R86, R87). An operand is a whole byte or a whole word (R81, R82), so it is a
`Byte` or a `Word` and every term of `Instr` is an instruction. -/

namespace Sys2Proof

/-- One constructor per row of the opcode map (R86). -/
inductive Instr where
  /-- NOP, R120. -/
  | nop
  /-- LD BC,d16, R121. -/
  | ldBCd16 (imm : Word)
  /-- LD DE,d16, R122. -/
  | ldDEd16 (imm : Word)
  /-- LD HL,d16, R123. -/
  | ldHLd16 (imm : Word)
  /-- LD SP,d16, R124. -/
  | ldSPd16 (imm : Word)
  /-- LD B,d8, R125. -/
  | ldBd8 (imm : Byte)
  /-- LD C,d8, R126. -/
  | ldCd8 (imm : Byte)
  /-- LD D,d8, R127. -/
  | ldDd8 (imm : Byte)
  /-- LD E,d8, R128. -/
  | ldEd8 (imm : Byte)
  /-- LD H,d8, R129. -/
  | ldHd8 (imm : Byte)
  /-- LD L,d8, R130. -/
  | ldLd8 (imm : Byte)
  /-- LD A,d8, R131. -/
  | ldAd8 (imm : Byte)
  /-- LD (BC),A, R140. -/
  | ldIndBCA
  /-- LD (DE),A, R141. -/
  | ldIndDEA
  /-- LD (HL),A, R142. -/
  | ldIndHLA
  /-- LD (HL-),A, R143. -/
  | ldIndHLDecA
  /-- LD A,(BC), R144. -/
  | ldAIndBC
  /-- LD A,(DE), R145. -/
  | ldAIndDE
  /-- LD A,(HL), R146. -/
  | ldAIndHL
  /-- LD (0xFF00+C),A, R147. -/
  | ldHighCA
  /-- LDH (a8),A, R148. -/
  | ldhA8A (off : Byte)
  /-- XOR A, R160. -/
  | xorA
  /-- INC B, R161. -/
  | incB
  /-- INC C, R162. -/
  | incC
  /-- INC D, R163. -/
  | incD
  /-- INC E, R164. -/
  | incE
  /-- INC H, R165. -/
  | incH
  /-- INC L, R166. -/
  | incL
  /-- INC A, R167. -/
  | incA
  /-- RLA, R168. -/
  | rla
  /-- RL B, R169. -/
  | rlB
  /-- RL C, R170. -/
  | rlC
  /-- RL D, R171. -/
  | rlD
  /-- RL E, R172. -/
  | rlE
  /-- RL H, R173. -/
  | rlH
  /-- RL L, R174. -/
  | rlL
  /-- RL A, R175. -/
  | rlA
  /-- BIT 7,H, R176. -/
  | bit7H
  /-- JR NZ,r8, R190. -/
  | jrNZ (off : Byte)
  /-- PUSH BC, R192. -/
  | pushBC
  /-- PUSH DE, R193. -/
  | pushDE
  /-- PUSH HL, R194. -/
  | pushHL
  /-- POP BC, R199. -/
  | popBC
  /-- POP DE, R200. -/
  | popDE
  /-- POP HL, R201. -/
  | popHL
  /-- CALL a16, R205. -/
  | callA16 (target : Word)
  deriving DecidableEq, Repr

/-- The encoded length in bytes (30_encoding.md R80, R81). -/
def Instr.length : Instr → Nat
  | .nop => 1
  | .ldBCd16 _ => 3
  | .ldDEd16 _ => 3
  | .ldHLd16 _ => 3
  | .ldSPd16 _ => 3
  | .ldBd8 _ => 2
  | .ldCd8 _ => 2
  | .ldDd8 _ => 2
  | .ldEd8 _ => 2
  | .ldHd8 _ => 2
  | .ldLd8 _ => 2
  | .ldAd8 _ => 2
  | .ldIndBCA => 1
  | .ldIndDEA => 1
  | .ldIndHLA => 1
  | .ldIndHLDecA => 1
  | .ldAIndBC => 1
  | .ldAIndDE => 1
  | .ldAIndHL => 1
  | .ldHighCA => 1
  | .ldhA8A _ => 2
  | .xorA => 1
  | .incB => 1
  | .incC => 1
  | .incD => 1
  | .incE => 1
  | .incH => 1
  | .incL => 1
  | .incA => 1
  | .rla => 1
  | .rlB => 2
  | .rlC => 2
  | .rlD => 2
  | .rlE => 2
  | .rlH => 2
  | .rlL => 2
  | .rlA => 2
  | .bit7H => 2
  | .jrNZ _ => 2
  | .pushBC => 1
  | .pushDE => 1
  | .pushHL => 1
  | .popBC => 1
  | .popDE => 1
  | .popHL => 1
  | .callA16 _ => 3

/-- The two dispatch tables (30_encoding.md R85, 60_exceptions.md R211). -/
inductive DecodeTable where
  | normal
  | extended
  deriving DecidableEq, Repr

/-- What an opcode byte selects: an instruction of format N1 or X2 (no operand byte), N2 (one) or N3 (two) (R81). -/
inductive Row where
  | bare (i : Instr)
  | withByte (mk : Byte → Instr)
  | withWord (mk : Word → Instr)

/-- The parameter `OPMAP` (00_scope.md R5): the bytes assigned in the Normal table and, after 0xCB, in the Extended
table, each with the row it selects. A byte that is not listed is unassigned (R88, R89). -/
structure Opmap where
  normal   : List (Byte × Row)
  extended : List (Byte × Instr)

end Sys2Proof
end

