-- ==== Sys2Proof/WellFormed.lean ====
section
/-! DEFINITION. What an opcode map must satisfy to be a map of this hardware. An instruction itself needs no check:
its operands are typed with exactly the width their encoding has (30_encoding.md R81, R82). -/

namespace Sys2Proof

/-- The byte 0 that enters the Extended table (30_encoding.md R85). -/
def extensionByte : Byte := 0xCB

/-- No two rows of a table overlap (30_encoding.md R94). -/
def bytesDistinct (bs : List Byte) : Bool := decide bs.Nodup

/-- The extension byte selects no instruction by itself (30_encoding.md R85, R86). -/
def extensionFree (m : Opmap) : Bool := !(m.normal.map Prod.fst).contains extensionByte

/-- Byte 0 = 0xFF stays unassigned (30_encoding.md R91). -/
def byteFFUnassigned (m : Opmap) : Bool := !(m.normal.map Prod.fst).contains 0xFF

/-- Every check of an opcode map. -/
def Opmap.wellFormed (m : Opmap) : Bool :=
  bytesDistinct (m.normal.map Prod.fst) && bytesDistinct (m.extended.map Prod.fst) &&
    extensionFree m && byteFFUnassigned m

end Sys2Proof
end

