-- ==== Sys2Proof/Decode.lean ====
section
/-! DEFINITION. Decoding and encoding: the opcode map of 30_encoding.md R86, whole-byte lookup in one of two tables
(R87, 40_fetch_decode_execute.md R102), the encoder, and the host's reading of a word of spec/opcode_table.json. -/

namespace Sys2Proof

open Sys2Proof.Machine (wordFromBytes lowByte highByte)

/-- The Normal table of R86, in the order of byte 0. -/
def normalTable : List (Byte × Row) :=
  [ (0x00, .bare .nop),
    (0x01, .withWord .ldBCd16),
    (0x02, .bare .ldIndBCA),
    (0x04, .bare .incB),
    (0x06, .withByte .ldBd8),
    (0x0A, .bare .ldAIndBC),
    (0x0C, .bare .incC),
    (0x0E, .withByte .ldCd8),
    (0x11, .withWord .ldDEd16),
    (0x12, .bare .ldIndDEA),
    (0x14, .bare .incD),
    (0x16, .withByte .ldDd8),
    (0x17, .bare .rla),
    (0x1A, .bare .ldAIndDE),
    (0x1C, .bare .incE),
    (0x1E, .withByte .ldEd8),
    (0x20, .withByte .jrNZ),
    (0x21, .withWord .ldHLd16),
    (0x24, .bare .incH),
    (0x26, .withByte .ldHd8) ] ++
  [ (0x2C, .bare .incL),
    (0x2E, .withByte .ldLd8),
    (0x31, .withWord .ldSPd16),
    (0x32, .bare .ldIndHLDecA),
    (0x3C, .bare .incA),
    (0x3E, .withByte .ldAd8),
    (0x77, .bare .ldIndHLA),
    (0x7E, .bare .ldAIndHL),
    (0xAF, .bare .xorA),
    (0xC1, .bare .popBC),
    (0xC5, .bare .pushBC),
    (0xCD, .withWord .callA16),
    (0xD1, .bare .popDE),
    (0xD5, .bare .pushDE),
    (0xE0, .withByte .ldhA8A),
    (0xE1, .bare .popHL),
    (0xE2, .bare .ldHighCA),
    (0xE5, .bare .pushHL) ]

/-- The Extended table of R86, indexed by the byte after 0xCB. -/
def extendedTable : List (Byte × Instr) :=
  [ (0x10, .rlB),
    (0x11, .rlC),
    (0x12, .rlD),
    (0x13, .rlE),
    (0x14, .rlH),
    (0x15, .rlL),
    (0x17, .rlA),
    (0x7C, .bit7H) ]

/-- The parameter `OPMAP` (00_scope.md R5) at the value R86 gives it. Log entry 1. -/
def opmap : Opmap := { normal := normalTable, extended := extendedTable }

/-- Whole-byte lookup (R87). -/
def lookupByte {α : Type} (k : Byte) : List (Byte × α) → Option α
  | [] => none
  | (k', x) :: t => if k = k' then some x else lookupByte k t

/-- The instruction a row gives with the two bytes that follow the opcode; a `d16` or `a16` has its low byte first
(R82, R84). -/
def Row.build (b1 b2 : Byte) : Row → Instr
  | .bare i => i
  | .withByte mk => mk b1
  | .withWord mk => mk (wordFromBytes b1 b2)

/-- An illegal encoding, the only kind there is (R90): the table and the offending byte (60_exceptions.md R211). -/
structure Unassigned where
  table : DecodeTable
  byte  : Byte
  deriving DecidableEq, Repr

/-- 40_fetch_decode_execute.md R102 over the map `m`: `b0` through the Normal table, or, where it is 0xCB, `b1`
through the Extended table. Bytes the selected row does not use play no part. -/
def decodeWith (m : Opmap) (b0 b1 b2 : Byte) : Except Unassigned Instr :=
  if b0 = extensionByte then
    match lookupByte b1 m.extended with
    | some i => .ok i
    | none => .error { table := .extended, byte := b1 }
  else
    match lookupByte b0 m.normal with
    | some r => .ok (r.build b1 b2)
    | none => .error { table := .normal, byte := b0 }

/-- Decoding with this hardware's map. -/
def decodeBytes (b0 b1 b2 : Byte) : Except Unassigned Instr := decodeWith opmap b0 b1 b2

/-- Why a list of bytes gives no instruction. -/
inductive DecodeError where
  | unassigned (u : Unassigned)   -- R90
  | truncated                     -- the list ends before the instruction does
  deriving DecidableEq, Repr

/-- The instruction at the head of a list of bytes, and the bytes after it. -/
def decode : List Byte → Except DecodeError (Instr × List Byte)
  | [] => .error .truncated
  | b0 :: rest =>
    if b0 = extensionByte ∧ rest = [] then .error .truncated
    else
      match decodeBytes b0 (rest.headD 0) (rest.tail.headD 0) with
      | .error u => .error (.unassigned u)
      | .ok i =>
        if i.length ≤ rest.length + 1 then .ok (i, rest.drop (i.length - 1)) else .error .truncated

/-- The bytes of an instruction in address order, from the Encoding line of each instruction's own rule (R120 to R205). -/
def encode : Instr → List Byte
  | .nop => [0x00]
  | .ldBCd16 w => [0x01, lowByte w, highByte w]
  | .ldDEd16 w => [0x11, lowByte w, highByte w]
  | .ldHLd16 w => [0x21, lowByte w, highByte w]
  | .ldSPd16 w => [0x31, lowByte w, highByte w]
  | .ldBd8 v => [0x06, v]
  | .ldCd8 v => [0x0E, v]
  | .ldDd8 v => [0x16, v]
  | .ldEd8 v => [0x1E, v]
  | .ldHd8 v => [0x26, v]
  | .ldLd8 v => [0x2E, v]
  | .ldAd8 v => [0x3E, v]
  | .ldIndBCA => [0x02]
  | .ldIndDEA => [0x12]
  | .ldIndHLA => [0x77]
  | .ldIndHLDecA => [0x32]
  | .ldAIndBC => [0x0A]
  | .ldAIndDE => [0x1A]
  | .ldAIndHL => [0x7E]
  | .ldHighCA => [0xE2]
  | .ldhA8A v => [0xE0, v]
  | .xorA => [0xAF]
  | .incB => [0x04]
  | .incC => [0x0C]
  | .incD => [0x14]
  | .incE => [0x1C]
  | .incH => [0x24]
  | .incL => [0x2C]
  | .incA => [0x3C]
  | .rla => [0x17]
  | .rlB => [0xCB, 0x10]
  | .rlC => [0xCB, 0x11]
  | .rlD => [0xCB, 0x12]
  | .rlE => [0xCB, 0x13]
  | .rlH => [0xCB, 0x14]
  | .rlL => [0xCB, 0x15]
  | .rlA => [0xCB, 0x17]
  | .bit7H => [0xCB, 0x7C]
  | .jrNZ v => [0x20, v]
  | .pushBC => [0xC5]
  | .pushDE => [0xD5]
  | .pushHL => [0xE5]
  | .popBC => [0xC1]
  | .popDE => [0xD1]
  | .popHL => [0xE1]
  | .callA16 w => [0xCD, lowByte w, highByte w]

/-- The bytes, in address order and up to the longest instruction, of a word of spec/opcode_table.json: `w` below
`2 ^ nbits`, zeros above. The table numbers the opcode bytes with byte 0 MOST significant (R94), so its 16-bit
words, those of the Extended rows, have 0xCB in bits 15:8. Every other word, and one with 0xCB in bits 7:0, has its first
byte in bits 7:0. Log entry 13. -/
def tableBytes (nbits w : Nat) : List Byte :=
  let v := w % 2 ^ nbits
  if nbits = 16 ∧ v / 256 = 0xCB then [extensionByte, BitVec.ofNat 8 v, 0]
  else [BitVec.ofNat 8 v, BitVec.ofNat 8 (v / 256), BitVec.ofNat 8 (v / 65536)]

/-- What the decoder reads from a word of spec/opcode_table.json; `none` where it refuses. -/
def decodeTableWord (nbits w : Nat) : Option Instr :=
  match decode (tableBytes nbits w) with
  | .ok (i, _) => some i
  | .error _ => none

end Sys2Proof
end

