-- ==== Sys2Proof/Machine/State.lean ====
section
/-! DEFINITION. The state of the CORE (10_state.md R10), its reset value (R33), and the reasons a step can stop. -/

namespace Sys2Proof.Machine

/-- One backing array as (address, byte) cells, in the canonical form of `Memory.wf` (Ops.lean). -/
abbrev Memory := List Host.Cell

/-- The three arrays that hold bytes (R27, 20_memory.md R45). -/
inductive Store where
  | boot   -- `BOOT_ROM`
  | cart   -- `CART_ROM`, both banks
  | hram   -- high RAM
  deriving DecidableEq, Repr

/-- The regions of the address space (20_memory.md R45, R46). -/
inductive Region where
  | boot
  | bank0
  | bank1
  | vram
  | io
  | hram
  | unmapped
  deriving DecidableEq, Repr

/-- The eight 8-bit registers (10_state.md R11). `f` is no instruction's operand. -/
inductive Reg where
  | a
  | b
  | c
  | d
  | e
  | h
  | l
  | f
  deriving DecidableEq, Repr

/-- The three register pairs (10_state.md R13). -/
inductive Pair where
  | bc
  | de
  | hl
  deriving DecidableEq, Repr

/-- The four flags (10_state.md R15). -/
inductive Flag where
  | z
  | n
  | h
  | c
  deriving DecidableEq, Repr

/-- The ten values of a fault record and of the host's introspection (60_exceptions.md R211, 70 R250). -/
structure Snapshot where
  a  : Byte
  b  : Byte
  c  : Byte
  d  : Byte
  e  : Byte
  h  : Byte
  l  : Byte
  f  : Byte
  pc : Word
  sp : Word
  deriving DecidableEq, Repr

/-- What a decode fault records (60_exceptions.md R211). -/
structure FaultRecord where
  table    : DecodeTable
  byte     : Byte
  snapshot : Snapshot
  deriving DecidableEq, Repr

/-- 10_state.md R30. -/
inductive Status where
  | running
  | faulted (r : FaultRecord)
  deriving DecidableEq, Repr

/-- The state (10_state.md R10). `bootRom` and `cartRom` hold the two images the spec calls parameters: what the
host has loaded into this machine, which no step changes (20_memory.md R50). Log entry 10. -/
structure State where
  a : Byte
  b : Byte
  c : Byte
  d : Byte
  e : Byte
  h : Byte
  l : Byte
  f : Byte
  pc : Word
  sp : Word
  cyc : CycleCount
  bootMapped : Bool
  bootRom : Memory
  cartRom : Memory
  hram : Memory
  wlog : List (Word × Byte)
  status : Status
  deriving DecidableEq, Repr

/-- The state after power-on (10_state.md R33, 70 R240): every CPU register zero, the boot ROM mapped, the trace empty,
no image byte listed and no high-RAM byte written. -/
def State.reset : State where
  a := 0
  b := 0
  c := 0
  d := 0
  e := 0
  h := 0
  l := 0
  f := 0
  pc := 0
  sp := 0
  cyc := 0
  bootMapped := true
  bootRom := []
  cartRom := []
  hram := []
  wlog := []
  status := .running

/-- Why a machine has no enabled step. -/
inductive Fault where
  /-- Raised by `step` alone, in a machine whose status is `faulted r` (60_exceptions.md R214: no enabled step until the
  host's reset). Safe: it is what the spec says. The decode fault itself is a next state. -/
  | stopped (r : FaultRecord)
  deriving DecidableEq, Repr

/-- Why the model gives an instruction no meaning. -/
inductive Refusal where
  /-- An instruction not modelled yet; raised by `exec`'s arms alone. Safe. No arm raises it now: all 46 have their meaning. -/
  | notModelled (mnemonic : String)
  deriving DecidableEq, Repr

end Sys2Proof.Machine
end

