-- ==== Sys2Proof/Machine/Ops.lean ====
section
/-! DEFINITION. The named operations over memory, registers, the pc and the status. -/

namespace Sys2Proof.Machine

/-! ## One backing array -/

/-- The first address of an array (20_memory.md R45). -/
def Store.first : Store → Nat
  | .boot => 0x0000
  | .cart => 0x0000
  | .hram => 0xFF80

/-- The last address of an array (20_memory.md R45): 256, 32768 and 127 bytes (00_scope.md R6). -/
def Store.last : Store → Nat
  | .boot => 0x00FF
  | .cart => 0x7FFF
  | .hram => 0xFFFE

/-- The one fixed byte an unlisted address of the array holds, where the spec fixes one: cartridge ROM is zero-filled
unless loaded (10_state.md R33). Boot ROM and high RAM have none. Log entries 8, 9. -/
def Store.fill : Store → Option Byte
  | .boot => none
  | .cart => some 0x00
  | .hram => none

/-- What an unlisted address of the array reads as: the fill byte, or the free value that stands for `BOOT_ROM` or
`HRAM_INIT`. Log entries 6, 7. -/
def Store.unlisted : Store → Nat → Byte
  | .boot, k => Config.bootRom k
  | .cart, _ => 0x00
  | .hram, k => Config.hramInit (k - 0xFF80)

/-- The byte listed at `k`. -/
def memGet : Memory → Nat → Option Byte
  | [], _ => none
  | (k', v) :: m, k => if k = k' then some v else memGet m k

/-- List `v` at `k`, in the place its address has. -/
def memInsert : Memory → Nat → Byte → Memory
  | [], k, v => [(k, v)]
  | (k', v') :: m, k, v =>
    if k < k' then (k, v) :: (k', v') :: m
    else if k = k' then (k, v) :: m
    else (k', v') :: memInsert m k v

/-- List nothing at `k`. -/
def memErase : Memory → Nat → Memory
  | [], _ => []
  | (k', v') :: m, k => if k = k' then memErase m k else (k', v') :: memErase m k

/-- Store `v` at `k` in canonical form: a byte equal to the fill byte is not listed. -/
def memPut (st : Store) (m : Memory) (k : Nat) (v : Byte) : Memory :=
  if st.fill = some v then memErase m k else memInsert m k v

/-- Cells from address `lo` on: addresses strictly rising, within the array, none equal to the fill byte. -/
def memWfFrom (st : Store) : Nat → Memory → Bool
  | _, [] => true
  | lo, (k, v) :: m =>
    decide (lo ≤ k) && decide (k ≤ st.last) && decide (st.fill ≠ some v) && memWfFrom st (k + 1) m

/-- The canonical form of an array's cells. -/
def Memory.wf (st : Store) (m : Memory) : Bool := memWfFrom st st.first m

/-- The cells of a whole image whose byte 0 is at address `k`. -/
def memOfImage (st : Store) : Nat → List Byte → Memory
  | _, [] => []
  | k, v :: vs => if st.fill = some v then memOfImage st (k + 1) vs else (k, v) :: memOfImage st (k + 1) vs

/-- One of the machine's arrays. -/
def State.store (s : State) : Store → Memory
  | .boot => s.bootRom
  | .cart => s.cartRom
  | .hram => s.hram

/-- Replace one of the machine's arrays. -/
def State.setStore (s : State) : Store → Memory → State
  | .boot, m => { s with bootRom := m }
  | .cart, m => { s with cartRom := m }
  | .hram, m => { s with hram := m }

/-! ## The address space (20_memory.md section 2) -/

/-- Region dispatch (20_memory.md R46): the first matching line decides. -/
def region (bootMapped : Bool) (addr : Word) : Region :=
  if addr.toNat ≤ 0x00FF ∧ bootMapped = true then .boot
  else if addr.toNat ≤ 0x3FFF then .bank0
  else if addr.toNat ≤ 0x7FFF then .bank1
  else if addr.toNat ≤ 0x9FFF then .vram
  else if addr.toNat ≤ 0xFEFF then .unmapped
  else if addr.toNat ≤ 0xFF7F then .io
  else if addr.toNat ≤ 0xFFFE then .hram
  else .unmapped

/-- The array behind a region; the windows and the unmapped addresses have none (20_memory.md R51 to R53). -/
def Region.backing : Region → Option Store
  | .boot => some .boot
  | .bank0 => some .cart
  | .bank1 => some .cart
  | .hram => some .hram
  | .vram => none
  | .io => none
  | .unmapped => none

/-- The region an address is in now. -/
def State.regionOf (s : State) (addr : Word) : Region := region s.bootMapped addr

/-- `MemRead(addr, 1)` (20_memory.md R54): total, no side effect. -/
def State.readByte (s : State) (addr : Word) : Byte :=
  match (s.regionOf addr).backing with
  | some st => (memGet (s.store st) addr.toNat).getD (st.unlisted addr.toNat)
  | none => 0x00

/-- `MemRead(addr, 2)` (20_memory.md R55): ascending, little-endian, the second address wraps. -/
def State.readWord (s : State) (addr : Word) : Word :=
  wordFromBytes (s.readByte addr) (s.readByte (addr + 1))

/-- One record of the diagnostic trace (10_state.md R28), unless `MODEL_WLOG` is false. -/
def State.trace (s : State) (addr : Word) (v : Byte) : State :=
  if Config.modelWlog = true then { s with wlog := s.wlog ++ [(addr, v)] } else s

/-- `MemWrite(addr, 1, v)` (20_memory.md R56): high RAM stores, the two windows trace, everything else drops. -/
def State.writeByte (s : State) (addr : Word) (v : Byte) : State :=
  match s.regionOf addr with
  | .hram => { s with hram := memPut .hram s.hram addr.toNat v }
  | .vram => s.trace addr v
  | .io => s.trace addr v
  | .boot => s
  | .bank0 => s
  | .bank1 => s
  | .unmapped => s

/-- `MemWriteDesc(addr, 2, v)` (20_memory.md R57): the high byte at `addr`, then the low byte one below, wrapping. -/
def State.writeWordDesc (s : State) (addr : Word) (v : Word) : State :=
  (s.writeByte addr (highByte v)).writeByte (addr - 1) (lowByte v)

/-! ## Registers (10_state.md sections 2 and 3) -/

/-- `x[r]` (00_scope.md R7). -/
def State.readReg (s : State) : Reg → Byte
  | .a => s.a
  | .b => s.b
  | .c => s.c
  | .d => s.d
  | .e => s.e
  | .h => s.h
  | .l => s.l
  | .f => s.f

/-- `x[r] <- v` (00_scope.md R7); a write of the whole of F keeps only bits 7:4 (10_state.md R15). -/
def State.writeReg (s : State) (r : Reg) (v : Byte) : State :=
  match r with
  | .a => { s with a := v }
  | .b => { s with b := v }
  | .c => { s with c := v }
  | .d => { s with d := v }
  | .e => { s with e := v }
  | .h => { s with h := v }
  | .l => { s with l := v }
  | .f => { s with f := v &&& 0xF0 }

/-- The first-named register of a pair, its bits 15:8 (10_state.md R13). -/
def Pair.high : Pair → Reg
  | .bc => .b
  | .de => .d
  | .hl => .h

/-- The second-named register of a pair, its bits 7:0 (10_state.md R13). -/
def Pair.low : Pair → Reg
  | .bc => .c
  | .de => .e
  | .hl => .l

/-- `xp[p]` (10_state.md R13): a view, high half first. -/
def State.readPair (s : State) (p : Pair) : Word := s.readReg p.high ++ s.readReg p.low

/-- `xp[p] <- w` (10_state.md R13). -/
def State.writePair (s : State) (p : Pair) (w : Word) : State :=
  (s.writeReg p.high (highByte w)).writeReg p.low (lowByte w)

/-! ## The end of an instruction (40_fetch_decode_execute.md R104 (c), (d)) -/

/-- `cyc <- cost; pc <- pc +16 len` (10_state.md R19, R24). -/
def State.finish (s : State) (len : Word) (cost : CycleCount) : State :=
  { s with cyc := cost, pc := s.pc + len }

/-- `cyc <- cost; pc <- target`, the end of a control transfer (10_state.md R19). -/
def State.jump (s : State) (target : Word) (cost : CycleCount) : State :=
  { s with cyc := cost, pc := target }

/-! ## The stack (44_control_and_stack.md R191, R198) -/

/-- Push a word (R191): `MemWriteDesc(sp -16 1, 2, w); sp <- sp -16 2`. -/
def State.push (s : State) (w : Word) : State :=
  let t := s.writeWordDesc (s.sp - 1) w
  { t with sp := s.sp - 2 }

/-- The word a pop takes (R198). -/
def State.top (s : State) : Word := s.readWord s.sp

/-- The stack pointer after a pop (R198). -/
def State.dropWord (s : State) : State := { s with sp := s.sp + 2 }

/-! ## The one exception (60_exceptions.md section 1) -/

/-- The ten values of R211 and of the host's introspection (70 R250). -/
def State.snapshot (s : State) : Snapshot :=
  { a := s.a, b := s.b, c := s.c, d := s.d, e := s.e, h := s.h, l := s.l, f := s.f, pc := s.pc, sp := s.sp }

/-- `raise DecodeFault(table, byte)` (R210 to R212): only the status changes, to the record of R211. Nothing is vectored
and nothing returns (R214); the way out is the host's `State.cpuReset` beside this. -/
def State.raiseDecodeFault (s : State) (u : Unassigned) : State :=
  { s with status := .faulted { table := u.table, byte := u.byte, snapshot := s.snapshot } }

/-- The host's `reset()` (70 R241): the CPU's state to zero and `status` to `Running`; `boot_mapped`, the arrays and
the trace stay as they are (10_state.md R34). -/
def State.cpuReset (s : State) : State :=
  { s with a := 0, b := 0, c := 0, d := 0, e := 0, h := 0, l := 0, f := 0, pc := 0, sp := 0, cyc := 0, status := .running }

end Sys2Proof.Machine
end

