-- ==== Sys2Proof/Machine/Operands.lean ====
section
/-! DEFINITION. Every operand form the spec gives (30_encoding.md R82 to R84, 42_accumulator_memory.md, its table of
addressing modes): immediates, the pair-indirect address, the two high-page addresses, the relative target. -/

namespace Sys2Proof.Machine

/-- The I/O base of the high-page stores (00_scope.md R8). -/
def ioBase : Word := 0xFF00

/-- `Imm8` (30_encoding.md R83). -/
def State.imm8 (s : State) : Byte := s.readByte (s.pc + 1)

/-- `Imm16` (30_encoding.md R84). -/
def State.imm16 (s : State) : Word := s.readWord (s.pc + 1)

/-- Register-pair indirect: the address in the pair (42_accumulator_memory.md R140 to R146). -/
def State.pairAddr (s : State) (p : Pair) : Word := s.readPair p

/-- High page plus register (42_accumulator_memory.md R147). -/
def State.highPageRegAddr (s : State) : Word := addUnsignedOffset ioBase s.c

/-- High page plus immediate (42_accumulator_memory.md R148). -/
def highPageImmAddr (off : Byte) : Word := addUnsignedOffset ioBase off

/-- The address of the following instruction, for the length `len` (44_control_and_stack.md R190, R205). -/
def State.following (s : State) (len : Word) : Word := s.pc + len

/-- The target of a relative jump of length 2 (44_control_and_stack.md R190). -/
def State.relativeTarget (s : State) (off : Byte) : Word := addSignedOffset (s.following 2) off

end Sys2Proof.Machine
end

