-- ==== Sys2Proof/Machine/Timing.lean ====
section
/-! DEFINITION. The parameter `CYCLES` (00_scope.md R5) at the values of 70_reset_and_hazards.md R260, one definition per
row of its table. Log entry 3. -/

namespace Sys2Proof.Machine

/-- NOP. -/
@[simp] def cyclesNop : CycleCount := 4

/-- LD rr,d16 and LD SP,d16. -/
@[simp] def cyclesLoadWord : CycleCount := 12

/-- LD r,d8. -/
@[simp] def cyclesLoadByte : CycleCount := 8

/-- LD (BC),A; LD (DE),A; LD (HL),A; LD (HL-),A. -/
@[simp] def cyclesStorePair : CycleCount := 8

/-- LD A,(BC); LD A,(DE); LD A,(HL). -/
@[simp] def cyclesLoadPair : CycleCount := 8

/-- XOR A. -/
@[simp] def cyclesXor : CycleCount := 4

/-- JR NZ,r8, taken (the spec's decision D4). -/
@[simp] def cyclesJumpTaken : CycleCount := 12

/-- JR NZ,r8, not taken (the spec's decision D4). -/
@[simp] def cyclesJumpNotTaken : CycleCount := 8

/-- BIT 7,H. -/
@[simp] def cyclesBit : CycleCount := 8

/-- INC r (the spec's decision D5). -/
@[simp] def cyclesInc : CycleCount := 4

/-- RLA. -/
@[simp] def cyclesRla : CycleCount := 4

/-- RL r. -/
@[simp] def cyclesRl : CycleCount := 8

/-- PUSH rr. -/
@[simp] def cyclesPush : CycleCount := 16

/-- POP rr. -/
@[simp] def cyclesPop : CycleCount := 12

/-- CALL a16 (kept as the source prints it, the spec's decision D20). -/
@[simp] def cyclesCall : CycleCount := 12

/-- LD (0xFF00+C),A. -/
@[simp] def cyclesHighPageReg : CycleCount := 8

/-- LDH (a8),A. -/
@[simp] def cyclesHighPageImm : CycleCount := 12

end Sys2Proof.Machine
end

