-- ==== Sys2Proof/Machine/AccMem.lean ====
section
/-! DEFINITION. Accumulator stores and loads through memory (42_accumulator_memory.md R140 to R148). None writes a flag. -/

namespace Sys2Proof.Machine

/-- LD (BC),A (R140). -/
def execLdIndBCA (s : State) : Host.Outcome State Fault Refusal :=
  .next ((s.writeByte (s.pairAddr .bc) s.a).finish 1 cyclesStorePair)

/-- LD (DE),A (R141). -/
def execLdIndDEA (s : State) : Host.Outcome State Fault Refusal :=
  .next ((s.writeByte (s.pairAddr .de) s.a).finish 1 cyclesStorePair)

/-- LD (HL),A (R142). -/
def execLdIndHLA (s : State) : Host.Outcome State Fault Refusal :=
  .next ((s.writeByte (s.pairAddr .hl) s.a).finish 1 cyclesStorePair)

/-- LD (HL-),A (R143): the address is HL before the decrement, which wraps and sets no flag. -/
def execLdIndHLDecA (s : State) : Host.Outcome State Fault Refusal :=
  let t := s.writeByte (s.pairAddr .hl) s.a
  .next ((t.writePair .hl (s.pairAddr .hl - 1)).finish 1 cyclesStorePair)

/-- LD A,(BC) (R144). -/
def execLdAIndBC (s : State) : Host.Outcome State Fault Refusal :=
  .next ((s.writeReg .a (s.readByte (s.pairAddr .bc))).finish 1 cyclesLoadPair)

/-- LD A,(DE) (R145). -/
def execLdAIndDE (s : State) : Host.Outcome State Fault Refusal :=
  .next ((s.writeReg .a (s.readByte (s.pairAddr .de))).finish 1 cyclesLoadPair)

/-- LD A,(HL) (R146). -/
def execLdAIndHL (s : State) : Host.Outcome State Fault Refusal :=
  .next ((s.writeReg .a (s.readByte (s.pairAddr .hl))).finish 1 cyclesLoadPair)

/-- LD (0xFF00+C),A (R147). -/
def execLdHighCA (s : State) : Host.Outcome State Fault Refusal :=
  .next ((s.writeByte s.highPageRegAddr s.a).finish 1 cyclesHighPageReg)

/-- LDH (a8),A (R148). -/
def execLdhA8A (off : Byte) (s : State) : Host.Outcome State Fault Refusal :=
  .next ((s.writeByte (highPageImmAddr off) s.a).finish 2 cyclesHighPageImm)

end Sys2Proof.Machine
end

