-- ==== Sys2Proof/Machine/Flags.lean ====
section
/-! DEFINITION. The flags (10_state.md R15, R16) and the four ALU functions (40_fetch_decode_execute.md section 2). -/

namespace Sys2Proof.Machine

/-- The number of the bit of F a flag is (10_state.md R15). -/
def Flag.bit : Flag → Nat
  | .z => 7
  | .n => 6
  | .h => 5
  | .c => 4

/-- That bit as a byte. -/
def Flag.mask : Flag → Byte
  | .z => 0x80
  | .n => 0x40
  | .h => 0x20
  | .c => 0x10

/-- `F.Z`, `F.N`, `F.H`, `F.C` (00_scope.md R7). -/
def State.flag (s : State) (fl : Flag) : Bool := s.f.getLsbD fl.bit

/-- `F.Z <- v` and the like: writes one bit, leaves the other bits of F alone (00_scope.md R7). -/
def State.setFlag (s : State) (fl : Flag) (v : Bool) : State :=
  { s with f := if v then s.f ||| fl.mask else s.f &&& ~~~fl.mask }

/-- The outputs of an ALU function; one that gives no carry leaves `c` as false and its caller does not read it. -/
structure AluOut where
  res : Byte
  z : Bool
  n : Bool
  h : Bool
  c : Bool
  deriving DecidableEq, Repr

/-- `Inc8` (R110). -/
def inc8 (v : Byte) : AluOut :=
  let res := v + 1
  { res := res, z := decide (res = 0), n := false, h := decide ((v ^^^ res ^^^ 0x01) &&& 0x10 ≠ 0), c := false }

/-- A carry as a byte. -/
def carryByte (cin : Bool) : Byte := if cin then 1 else 0

/-- `Rl9` (R111): the 9-bit quantity of carry and byte, rotated left by one. -/
def rl9 (v : Byte) (cin : Bool) : AluOut :=
  let res := (v <<< 1) ||| carryByte cin
  { res := res, z := decide (res = 0), n := false, h := false, c := v.msb }

/-- `Bit7` (R112): Z is 1 when the bit is 0 and 0 when it is 1; the operand is not changed. -/
def bit7 (v : Byte) : AluOut :=
  { res := v, z := !v.msb, n := false, h := true, c := false }

/-- `XorSelf` (R113). -/
def xorSelf (v : Byte) : AluOut :=
  { res := v ^^^ v, z := true, n := false, h := false, c := false }

/-- The register and flag effect of INC r (43_alu_and_bit.md R161 to R167): C is not written. -/
def State.incReg (s : State) (r : Reg) : State :=
  let o := inc8 (s.readReg r)
  (((s.writeReg r o.res).setFlag .z o.z).setFlag .n o.n).setFlag .h o.h

/-- The register and flag effect of RLA and RL r (43_alu_and_bit.md R168 to R175): all four flags. -/
def State.rotateReg (s : State) (r : Reg) : State :=
  let o := rl9 (s.readReg r) (s.flag .c)
  ((((s.writeReg r o.res).setFlag .z o.z).setFlag .n o.n).setFlag .h o.h).setFlag .c o.c

/-- The flag effect of BIT 7,H (43_alu_and_bit.md R176): C and H, the register, are not written. -/
def State.testBit7 (s : State) (r : Reg) : State :=
  let o := bit7 (s.readReg r)
  ((s.setFlag .z o.z).setFlag .n o.n).setFlag .h o.h

/-- The register and flag effect of XOR A (43_alu_and_bit.md R160) under either value of `XOR_A_NHC`. -/
def State.xorAcc (s : State) (mode : Config.XorANHC) : State :=
  let o := xorSelf s.a
  let t := (s.writeReg .a o.res).setFlag .z o.z
  match mode with
  | .retain => t
  | .clear => ((t.setFlag .n false).setFlag .h false).setFlag .c false

end Sys2Proof.Machine
end

