-- ==== Sys2Proof/Machine/Alu.lean ====
section
/-! DEFINITION. Self-XOR, increments, rotates and the bit test (43_alu_and_bit.md R160 to R176). -/

namespace Sys2Proof.Machine

/-- XOR A (R160), with this hardware's `XOR_A_NHC`. -/
def execXorA (s : State) : Host.Outcome State Fault Refusal :=
  .next ((s.xorAcc Config.xorANHC).finish 1 cyclesXor)

/-- INC B (R161). -/
def execIncB (s : State) : Host.Outcome State Fault Refusal :=
  .next ((s.incReg .b).finish 1 cyclesInc)

/-- INC C (R162). -/
def execIncC (s : State) : Host.Outcome State Fault Refusal :=
  .next ((s.incReg .c).finish 1 cyclesInc)

/-- INC D (R163). -/
def execIncD (s : State) : Host.Outcome State Fault Refusal :=
  .next ((s.incReg .d).finish 1 cyclesInc)

/-- INC E (R164). -/
def execIncE (s : State) : Host.Outcome State Fault Refusal :=
  .next ((s.incReg .e).finish 1 cyclesInc)

/-- INC H (R165). -/
def execIncH (s : State) : Host.Outcome State Fault Refusal :=
  .next ((s.incReg .h).finish 1 cyclesInc)

/-- INC L (R166). -/
def execIncL (s : State) : Host.Outcome State Fault Refusal :=
  .next ((s.incReg .l).finish 1 cyclesInc)

/-- INC A (R167). -/
def execIncA (s : State) : Host.Outcome State Fault Refusal :=
  .next ((s.incReg .a).finish 1 cyclesInc)

/-- RLA (R168): Z reflects the result here too. -/
def execRla (s : State) : Host.Outcome State Fault Refusal :=
  .next ((s.rotateReg .a).finish 1 cyclesRla)

/-- RL B (R169). -/
def execRlB (s : State) : Host.Outcome State Fault Refusal :=
  .next ((s.rotateReg .b).finish 2 cyclesRl)

/-- RL C (R170). -/
def execRlC (s : State) : Host.Outcome State Fault Refusal :=
  .next ((s.rotateReg .c).finish 2 cyclesRl)

/-- RL D (R171). -/
def execRlD (s : State) : Host.Outcome State Fault Refusal :=
  .next ((s.rotateReg .d).finish 2 cyclesRl)

/-- RL E (R172). -/
def execRlE (s : State) : Host.Outcome State Fault Refusal :=
  .next ((s.rotateReg .e).finish 2 cyclesRl)

/-- RL H (R173). -/
def execRlH (s : State) : Host.Outcome State Fault Refusal :=
  .next ((s.rotateReg .h).finish 2 cyclesRl)

/-- RL L (R174). -/
def execRlL (s : State) : Host.Outcome State Fault Refusal :=
  .next ((s.rotateReg .l).finish 2 cyclesRl)

/-- RL A (R175). -/
def execRlA (s : State) : Host.Outcome State Fault Refusal :=
  .next ((s.rotateReg .a).finish 2 cyclesRl)

/-- BIT 7,H (R176). -/
def execBit7H (s : State) : Host.Outcome State Fault Refusal :=
  .next ((s.testBit7 .h).finish 2 cyclesBit)

end Sys2Proof.Machine
end

