-- ==== Sys2Proof/Machine/Control.lean ====
section
/-! DEFINITION. Control transfer and the stack (44_control_and_stack.md R190 to R205). None writes a flag. -/

namespace Sys2Proof.Machine

/-- JR NZ,r8 (R190): the displacement counts from the following instruction. -/
def execJrNZ (off : Byte) (s : State) : Host.Outcome State Fault Refusal :=
  match s.flag .z with
  | false => .next (s.jump (s.relativeTarget off) cyclesJumpTaken)
  | true => .next (s.jump (s.following 2) cyclesJumpNotTaken)

/-- PUSH BC (R192). -/
def execPushBC (s : State) : Host.Outcome State Fault Refusal :=
  .next ((s.push (s.readPair .bc)).finish 1 cyclesPush)

/-- PUSH DE (R193). -/
def execPushDE (s : State) : Host.Outcome State Fault Refusal :=
  .next ((s.push (s.readPair .de)).finish 1 cyclesPush)

/-- PUSH HL (R194). -/
def execPushHL (s : State) : Host.Outcome State Fault Refusal :=
  .next ((s.push (s.readPair .hl)).finish 1 cyclesPush)

/-- POP BC (R199). -/
def execPopBC (s : State) : Host.Outcome State Fault Refusal :=
  .next (((s.writePair .bc s.top).dropWord).finish 1 cyclesPop)

/-- POP DE (R200). -/
def execPopDE (s : State) : Host.Outcome State Fault Refusal :=
  .next (((s.writePair .de s.top).dropWord).finish 1 cyclesPop)

/-- POP HL (R201). -/
def execPopHL (s : State) : Host.Outcome State Fault Refusal :=
  .next (((s.writePair .hl s.top).dropWord).finish 1 cyclesPop)

/-- CALL a16 (R205): the target was read with the instruction, before the push (D13). -/
def execCallA16 (target : Word) (s : State) : Host.Outcome State Fault Refusal :=
  .next ((s.push (s.following 3)).jump target cyclesCall)

end Sys2Proof.Machine
end

