-- ==== Sys2Proof/Machine/Loads.lean ====
section
/-! DEFINITION. No-op and immediate loads (41_nop_and_immediate_loads.md R120 to R131). None writes a flag. -/

namespace Sys2Proof.Machine

/-- NOP (R120). -/
def execNop (s : State) : Host.Outcome State Fault Refusal :=
  .next (s.finish 1 cyclesNop)

/-- LD BC,d16 (R121). -/
def execLdBCd16 (imm : Word) (s : State) : Host.Outcome State Fault Refusal :=
  .next ((s.writePair .bc imm).finish 3 cyclesLoadWord)

/-- LD DE,d16 (R122). -/
def execLdDEd16 (imm : Word) (s : State) : Host.Outcome State Fault Refusal :=
  .next ((s.writePair .de imm).finish 3 cyclesLoadWord)

/-- LD HL,d16 (R123). -/
def execLdHLd16 (imm : Word) (s : State) : Host.Outcome State Fault Refusal :=
  .next ((s.writePair .hl imm).finish 3 cyclesLoadWord)

/-- LD SP,d16 (R124): SP is no pair (10_state.md R22). -/
def execLdSPd16 (imm : Word) (s : State) : Host.Outcome State Fault Refusal :=
  .next (State.finish { s with sp := imm } 3 cyclesLoadWord)

/-- LD B,d8 (R125). -/
def execLdBd8 (imm : Byte) (s : State) : Host.Outcome State Fault Refusal :=
  .next ((s.writeReg .b imm).finish 2 cyclesLoadByte)

/-- LD C,d8 (R126). -/
def execLdCd8 (imm : Byte) (s : State) : Host.Outcome State Fault Refusal :=
  .next ((s.writeReg .c imm).finish 2 cyclesLoadByte)

/-- LD D,d8 (R127). -/
def execLdDd8 (imm : Byte) (s : State) : Host.Outcome State Fault Refusal :=
  .next ((s.writeReg .d imm).finish 2 cyclesLoadByte)

/-- LD E,d8 (R128). -/
def execLdEd8 (imm : Byte) (s : State) : Host.Outcome State Fault Refusal :=
  .next ((s.writeReg .e imm).finish 2 cyclesLoadByte)

/-- LD H,d8 (R129). -/
def execLdHd8 (imm : Byte) (s : State) : Host.Outcome State Fault Refusal :=
  .next ((s.writeReg .h imm).finish 2 cyclesLoadByte)

/-- LD L,d8 (R130). -/
def execLdLd8 (imm : Byte) (s : State) : Host.Outcome State Fault Refusal :=
  .next ((s.writeReg .l imm).finish 2 cyclesLoadByte)

/-- LD A,d8 (R131). -/
def execLdAd8 (imm : Byte) (s : State) : Host.Outcome State Fault Refusal :=
  .next ((s.writeReg .a imm).finish 2 cyclesLoadByte)

end Sys2Proof.Machine
end

