-- ==== Sys2Proof/Machine/Dispatch.lean ====
section
/-! DEFINITION. Dispatch: one arm per instruction of 30_encoding.md R86, each a direct call of that instruction's meaning. -/

namespace Sys2Proof.Machine

def exec (i : Instr) (s : State) : Host.Outcome State Fault Refusal :=
  match i with
  | .nop => Sys2Proof.Machine.execNop s
  | .ldBCd16 imm => Sys2Proof.Machine.execLdBCd16 imm s
  | .ldDEd16 imm => Sys2Proof.Machine.execLdDEd16 imm s
  | .ldHLd16 imm => Sys2Proof.Machine.execLdHLd16 imm s
  | .ldSPd16 imm => Sys2Proof.Machine.execLdSPd16 imm s
  | .ldBd8 imm => Sys2Proof.Machine.execLdBd8 imm s
  | .ldCd8 imm => Sys2Proof.Machine.execLdCd8 imm s
  | .ldDd8 imm => Sys2Proof.Machine.execLdDd8 imm s
  | .ldEd8 imm => Sys2Proof.Machine.execLdEd8 imm s
  | .ldHd8 imm => Sys2Proof.Machine.execLdHd8 imm s
  | .ldLd8 imm => Sys2Proof.Machine.execLdLd8 imm s
  | .ldAd8 imm => Sys2Proof.Machine.execLdAd8 imm s
  | .ldIndBCA => Sys2Proof.Machine.execLdIndBCA s
  | .ldIndDEA => Sys2Proof.Machine.execLdIndDEA s
  | .ldIndHLA => Sys2Proof.Machine.execLdIndHLA s
  | .ldIndHLDecA => Sys2Proof.Machine.execLdIndHLDecA s
  | .ldAIndBC => Sys2Proof.Machine.execLdAIndBC s
  | .ldAIndDE => Sys2Proof.Machine.execLdAIndDE s
  | .ldAIndHL => Sys2Proof.Machine.execLdAIndHL s
  | .ldHighCA => Sys2Proof.Machine.execLdHighCA s
  | .ldhA8A off => Sys2Proof.Machine.execLdhA8A off s
  | .xorA => Sys2Proof.Machine.execXorA s
  | .incB => Sys2Proof.Machine.execIncB s
  | .incC => Sys2Proof.Machine.execIncC s
  | .incD => Sys2Proof.Machine.execIncD s
  | .incE => Sys2Proof.Machine.execIncE s
  | .incH => Sys2Proof.Machine.execIncH s
  | .incL => Sys2Proof.Machine.execIncL s
  | .incA => Sys2Proof.Machine.execIncA s
  | .rla => Sys2Proof.Machine.execRla s
  | .rlB => Sys2Proof.Machine.execRlB s
  | .rlC => Sys2Proof.Machine.execRlC s
  | .rlD => Sys2Proof.Machine.execRlD s
  | .rlE => Sys2Proof.Machine.execRlE s
  | .rlH => Sys2Proof.Machine.execRlH s
  | .rlL => Sys2Proof.Machine.execRlL s
  | .rlA => Sys2Proof.Machine.execRlA s
  | .bit7H => Sys2Proof.Machine.execBit7H s
  | .jrNZ off => Sys2Proof.Machine.execJrNZ off s
  | .pushBC => Sys2Proof.Machine.execPushBC s
  | .pushDE => Sys2Proof.Machine.execPushDE s
  | .pushHL => Sys2Proof.Machine.execPushHL s
  | .popBC => Sys2Proof.Machine.execPopBC s
  | .popDE => Sys2Proof.Machine.execPopDE s
  | .popHL => Sys2Proof.Machine.execPopHL s
  | .callA16 target => Sys2Proof.Machine.execCallA16 target s

end Sys2Proof.Machine
end

