-- ==== Sys2Proof/Machine/Fetch.lean ====
section
/-! DEFINITION. Fetching and decoding at the pc (40_fetch_decode_execute.md R101, R102), and placing an instruction where
the next fetch reads. -/

namespace Sys2Proof.Machine

/-- Fetch and decode at the pc: the bytes at `pc`, `pc + 1`, `pc + 2`, wrapping (30_encoding.md R80). A read has no side
effect, so reading a byte the instruction does not have shows nowhere (R101). Log entry 14. -/
def State.fetchDecode (s : State) : Except Unassigned Instr :=
  decodeBytes (s.readByte s.pc) (s.readByte (s.pc + 1)) (s.readByte (s.pc + 2))

/-- An array lies behind the address. -/
def State.backed (s : State) (addr : Word) : Bool := (s.regionOf addr).backing.isSome

/-- The host's load of one image or high-RAM byte: list `v` in the array behind `addr`, if there is one. No instruction does
this. -/
def State.loadByte (s : State) (addr : Word) (v : Byte) : State :=
  match (s.regionOf addr).backing with
  | some st => s.setStore st (memPut st (s.store st) addr.toNat v)
  | none => s

/-- The first address of cartridge ROM that is never shadowed (20_memory.md R45). -/
def loadHome : Word := 0x0100

/-- Where three bytes can be placed for the next fetch: the pc, if an array lies behind all three addresses, else
`loadHome`. Log entry 12. -/
def State.fetchHome (s : State) : Word :=
  if s.backed s.pc && s.backed (s.pc + 1) && s.backed (s.pc + 2) then s.pc else loadHome

/-- The state with up to three bytes placed where its next step fetches, and that step enabled. Log entry 12. -/
def State.placeAtFetch (s : State) (bs : List Byte) : State :=
  let t : State := { s with pc := s.fetchHome, status := .running }
  ((t.loadByte t.pc (bs.getD 0 0)).loadByte (t.pc + 1) (bs.getD 1 0)).loadByte (t.pc + 2) (bs.getD 2 0)

end Sys2Proof.Machine
end

