-- ==== Sys2Proof/Machine/Step.lean ====
section
/-! DEFINITION. One step of the CPU (40_fetch_decode_execute.md R100 to R103). -/

namespace Sys2Proof.Machine

/-- One step: enabled only while `Running` (R100); an assigned opcode runs its instruction (R102), an unassigned one takes
the decode fault (R103), after which no step is enabled (60_exceptions.md R214). -/
def step (s : State) : Host.Outcome State Fault Refusal :=
  match s.status with
  | .faulted r => .fault (.stopped r)
  | .running =>
    match s.fetchDecode with
    | .ok i => exec i s
    | .error u => .next (s.raiseDecodeFault u)

/-- `s` with the instruction of a table word where `step` fetches next (Decode.lean's `tableBytes` gives its bytes). -/
def State.withFetchWord (s : State) (nbits w : Nat) : State := s.placeAtFetch (tableBytes nbits w)

end Sys2Proof.Machine
end

