-- ==== Sys2Proof/Machine/HostOps.lean ====
section
/-! DEFINITION. The host's moves (70_reset_and_hazards.md section 2), all of R252. Introspection is `State.snapshot` and
`reset()` is `State.cpuReset`, both in Ops.lean. -/

namespace Sys2Proof.Machine

/-- `unmapBootRom()` (R251): it can only clear. -/
def State.unmapBootRom (s : State) : State := { s with bootMapped := false }

/-- `loadRom` (R246): image byte i becomes `CART_ROM[i]`, bytes past the first 32 KiB are ignored; `none` for an image that is
too short (00_scope.md R6: no machine). Only before the first step (R252). -/
def State.loadRom (s : State) (image : List Byte) : Option State :=
  if 32768 ≤ image.length then some { s with cartRom := memOfImage .cart 0 (image.take 32768) } else none

/-- Construction with a boot ROM image and a high-RAM content (R240 steps 1, 3 and 4; R245 has no step of its own), then
`reset()`; `none` unless they have 256 and 127 bytes (00_scope.md R6, R249). -/
def State.construct (boot hram : List Byte) : Option State :=
  if boot.length = 256 ∧ hram.length = 127 then
    some { State.reset with bootRom := memOfImage .boot 0 boot, hram := memOfImage .hram 0xFF80 hram }
  else none

/-- The moves that change a machine during a run (R252). Loading is none of them, and to stop stepping or to read
the state changes nothing. -/
inductive HostMove where
  | step
  | reset
  | unmapBootRom
  deriving DecidableEq, Repr

/-- One move of the host (R252): `reset()` and `unmapBootRom()` in any status, `step` while `Running`. -/
def State.hostMove (s : State) : HostMove → Host.Outcome State Fault Refusal
  | .step => Sys2Proof.Machine.step s
  | .reset => .next s.cpuReset
  | .unmapBootRom => .next s.unmapBootRom

/-- A sequence of moves, stopping where a step is not enabled. -/
def State.hostMoves (s : State) : List HostMove → Host.Outcome State Fault Refusal
  | [] => .next s
  | m :: ms =>
    match s.hostMove m with
    | .next t => t.hostMoves ms
    | .fault r => .fault r
    | .refused r => .refused r

/-- `n` iterations of the loop of `run()` (R243, 40 R107): `reset()`, then `step` for ever; here for `n` steps. -/
def State.runFor (s : State) (n : Nat) : Host.Outcome State Fault Refusal :=
  s.hostMoves (.reset :: List.replicate n .step)

end Sys2Proof.Machine
end

