-- ==== Sys2Proof/Safety.lean ====
section
/-! DEFINITION. What every reachable state satisfies, and what a safe run is. -/

namespace Sys2Proof

open Sys2Proof.Machine

/-- The three arrays are in canonical form, every cell inside its array (10_state.md R27, 20_memory.md R47). -/
def MemoryCanonical (s : State) : Prop :=
  Memory.wf .boot s.bootRom = true ∧ Memory.wf .cart s.cartRom = true ∧ Memory.wf .hram s.hram = true

/-- F's low four bits are zero (10_state.md R15). -/
def FlagsLowZero (s : State) : Prop := s.f &&& 0x0F = 0

/-- An address in the video RAM window or the I/O window (20_memory.md R45). -/
def InWindow (a : Word) : Prop :=
  (0x8000 ≤ a.toNat ∧ a.toNat ≤ 0x9FFF) ∨ (0xFF00 ≤ a.toNat ∧ a.toNat ≤ 0xFF7F)

/-- Every record of the trace is of a window (10_state.md R28). -/
def TraceInWindows (s : State) : Prop := ∀ r ∈ s.wlog, InWindow r.1

/-- A fault record holds the ten values as they are (60_exceptions.md R211): nothing moves after a fault. -/
def RecordHolds (s : State) : Prop := ∀ r, s.status = .faulted r → r.snapshot = s.snapshot

/-- The cycle counter is 0 or the cost of some instruction (10_state.md R24, 70 R260). -/
def CostLegal (s : State) : Prop := s.cyc = 0 ∨ s.cyc = 4 ∨ s.cyc = 8 ∨ s.cyc = 12 ∨ s.cyc = 16

/-- The invariant of the machine. -/
structure Inv (s : State) : Prop where
  memory : MemoryCanonical s
  flags : FlagsLowZero s
  trace : TraceInWindows s
  record : RecordHolds s
  cost : CostLegal s

/-- `n` steps from `s` end in a machine that is still running: no step of them raised a decode fault (60_exceptions.md
R214: a faulted state is never a final state of a successful run). -/
def RunsFor (s : State) (n : Nat) : Prop :=
  ∃ t, s.hostMoves (List.replicate n .step) = .next t ∧ t.status = .running

/-- High RAM as a range of addresses (10_state.md R27). -/
def InHighRam (a : Word) : Prop := 0xFF80 ≤ a.toNat ∧ a.toNat ≤ 0xFFFE

end Sys2Proof
end

