-- ==== Sys2Proof/Certificates/Slice0/Obligations.lean ====
section
/-! DEFINITION. The statements for the provers, from the numbered rules of spec/. Every one holds for all states of the
type, reachable or not, unless it names `Inv`. -/

namespace Sys2Proof.Claims

open Sys2Proof.Machine

/-! ## Words the statements use -/

/-- A step is enabled (R100) and byte 0 at the pc is `b0`. -/
def AtOpcode (s : State) (b0 : Byte) : Prop := s.status = .running ∧ s.readByte s.pc = b0

/-- A step is enabled, byte 0 at the pc is the extension byte 0xCB and byte 1 is `b1` (R85). -/
def AtExtended (s : State) (b1 : Byte) : Prop :=
  s.status = .running ∧ s.readByte s.pc = 0xCB ∧ s.readByte (s.pc + 1) = b1

/-- Byte 2 and byte 1 of the instruction at the pc as one word, byte 1 the low half (R84). -/
def operandWord (s : State) : Word := s.readByte (s.pc + 2) ++ s.readByte (s.pc + 1)

/-- The instruction `i` of format N1 with byte 0 = `b0`: it completes in `t s` from every state `s`, and a step that fetches
the byte answers the same. -/
def RunsN1 (b0 : Byte) (i : Instr) (t : State → State) : Prop :=
  ∀ s : State, exec i s = .next (t s) ∧ (AtOpcode s b0 → step s = .next (t s))

/-- The same for format N2: the operand is byte 1 (R83). -/
def RunsN2 (b0 : Byte) (mk : Byte → Instr) (t : State → Byte → State) : Prop :=
  ∀ s : State, (∀ v : Byte, exec (mk v) s = .next (t s v)) ∧
    (AtOpcode s b0 → step s = .next (t s (s.readByte (s.pc + 1))))

/-- The same for format N3: the operand is bytes 1 and 2, low byte first (R84). -/
def RunsN3 (b0 : Byte) (mk : Word → Instr) (t : State → Word → State) : Prop :=
  ∀ s : State, (∀ w : Word, exec (mk w) s = .next (t s w)) ∧
    (AtOpcode s b0 → step s = .next (t s (operandWord s)))

/-- The same for format X2: byte 0 is 0xCB and byte 1 is `b1` (R85). -/
def RunsX2 (b1 : Byte) (i : Instr) (t : State → State) : Prop :=
  ∀ s : State, exec i s = .next (t s) ∧ (AtExtended s b1 → step s = .next (t s))

/-- Bits 15:8 and bits 7:0 of a word. -/
def hi (w : Word) : Byte := w.extractLsb' 8 8
def lo (w : Word) : Byte := w.extractLsb' 0 8

/-- F after INC of a register that held `v` (R161 to R167): bits 7, 6 and 5 written, bits 4 to 0 kept. -/
def fAfterInc (f v : Byte) : Byte :=
  (f &&& 0x1F) ||| (if v + 1 = 0 then 0x80 else 0) ||| (if v &&& 0x0F = 0x0F then 0x20 else 0)

/-- `v` rotated left with F's carry bit entering bit 0 (R111): its bits 6:0, then the carry. -/
def rotated (f v : Byte) : Byte := v.extractLsb' 0 7 ++ BitVec.ofBool (f.getLsbD 4)

/-- F after RLA or RL of a register that held `v` (R168 to R175): bits 7 to 4 written, bits 3 to 0 kept. -/
def fAfterRotate (f v : Byte) : Byte :=
  (f &&& 0x0F) ||| (if rotated f v = 0 then 0x80 else 0) ||| (if v.getLsbD 7 then 0x10 else 0)

/-- F after BIT 7 of a register that holds `v` (R176): bits 7, 6 and 5 written, bits 4 to 0 kept. -/
def fAfterBit (f v : Byte) : Byte := (f &&& 0x1F) ||| 0x20 ||| (if v.getLsbD 7 then 0 else 0x80)

/-- A byte of the boot ROM image, of the cartridge image, of high RAM, at a bus address. -/
def bootByte (s : State) (a : Word) : Byte := (memGet s.bootRom a.toNat).getD (Config.bootRom a.toNat)
def cartByte (s : State) (a : Word) : Byte := (memGet s.cartRom a.toNat).getD 0
def hramByte (s : State) (a : Word) : Byte := (memGet s.hram a.toNat).getD (Config.hramInit (a.toNat - 0xFF80))

/-- The nine rows of the address map (R45), each as whether the address is in it. -/
def mapRows (m : Bool) (a : Word) : List Bool :=
  [ decide (a.toNat ≤ 0x00FF) && m, decide (a.toNat ≤ 0x00FF) && !m, decide (0x0100 ≤ a.toNat ∧ a.toNat ≤ 0x3FFF),
    decide (0x4000 ≤ a.toNat ∧ a.toNat ≤ 0x7FFF), decide (0x8000 ≤ a.toNat ∧ a.toNat ≤ 0x9FFF),
    decide (0xA000 ≤ a.toNat ∧ a.toNat ≤ 0xFEFF), decide (0xFF00 ≤ a.toNat ∧ a.toNat ≤ 0xFF7F),
    decide (0xFF80 ≤ a.toNat ∧ a.toNat ≤ 0xFFFE), decide (a.toNat = 0xFFFF) ]

/-- The unassigned values of byte 0, as R88 lists them. -/
def unassignedNormal : List (Nat × Nat) :=
  [ (0x03, 0x03), (0x05, 0x05), (0x07, 0x09), (0x0B, 0x0B), (0x0D, 0x0D), (0x0F, 0x0F), (0x10, 0x10), (0x13, 0x13),
    (0x15, 0x15), (0x18, 0x18), (0x19, 0x19), (0x1B, 0x1B), (0x1D, 0x1D), (0x1F, 0x1F), (0x22, 0x22), (0x23, 0x23),
    (0x25, 0x25), (0x27, 0x2B), (0x2D, 0x2D), (0x2F, 0x2F), (0x30, 0x30), (0x33, 0x3B), (0x3D, 0x3D), (0x3F, 0x76) ] ++
  [ (0x78, 0x7D), (0x7F, 0xAE), (0xB0, 0xC0), (0xC2, 0xC4), (0xC6, 0xCA), (0xCC, 0xCC), (0xCE, 0xD0), (0xD2, 0xD4),
    (0xD6, 0xDF), (0xE3, 0xE3), (0xE4, 0xE4), (0xE6, 0xFF) ]

/-- The unassigned values of byte 1 after 0xCB, as R89 lists them. -/
def unassignedExtended : List (Nat × Nat) := [ (0x00, 0x0F), (0x16, 0x16), (0x18, 0x7B), (0x7D, 0xFF) ]

/-- `b` is in one of the ranges. -/
def inRanges (b : Byte) (rs : List (Nat × Nat)) : Prop := ∃ r ∈ rs, r.1 ≤ b.toNat ∧ b.toNat ≤ r.2

/-- The operand registers an instruction writes (10_state.md R12, column "written by"). -/
def writesReg : Instr → List Reg
  | .nop => []
  | .ldBCd16 _ => [.b, .c]
  | .ldDEd16 _ => [.d, .e]
  | .ldHLd16 _ => [.h, .l]
  | .ldSPd16 _ => []
  | .ldBd8 _ => [.b]
  | .ldCd8 _ => [.c]
  | .ldDd8 _ => [.d]
  | .ldEd8 _ => [.e]
  | .ldHd8 _ => [.h]
  | .ldLd8 _ => [.l]
  | .ldAd8 _ => [.a]
  | .ldIndBCA => []
  | .ldIndDEA => []
  | .ldIndHLA => []
  | .ldIndHLDecA => [.h, .l]
  | .ldAIndBC => [.a]
  | .ldAIndDE => [.a]
  | .ldAIndHL => [.a]
  | .ldHighCA => []
  | .ldhA8A _ => []
  | .xorA => [.a]
  | .incB => [.b]
  | .incC => [.c]
  | .incD => [.d]
  | .incE => [.e]
  | .incH => [.h]
  | .incL => [.l]
  | .incA => [.a]
  | .rla => [.a]
  | .rlB => [.b]
  | .rlC => [.c]
  | .rlD => [.d]
  | .rlE => [.e]
  | .rlH => [.h]
  | .rlL => [.l]
  | .rlA => [.a]
  | .bit7H => []
  | .jrNZ _ => []
  | .pushBC => []
  | .pushDE => []
  | .pushHL => []
  | .popBC => [.b, .c]
  | .popDE => [.d, .e]
  | .popHL => [.h, .l]
  | .callA16 _ => []

/-- The operand registers an instruction reads (10_state.md R12, column "read by"). -/
def readsReg : Instr → List Reg
  | .nop => []
  | .ldBCd16 _ => []
  | .ldDEd16 _ => []
  | .ldHLd16 _ => []
  | .ldSPd16 _ => []
  | .ldBd8 _ => []
  | .ldCd8 _ => []
  | .ldDd8 _ => []
  | .ldEd8 _ => []
  | .ldHd8 _ => []
  | .ldLd8 _ => []
  | .ldAd8 _ => []
  | .ldIndBCA => [.a, .b, .c]
  | .ldIndDEA => [.a, .d, .e]
  | .ldIndHLA => [.a, .h, .l]
  | .ldIndHLDecA => [.a, .h, .l]
  | .ldAIndBC => [.b, .c]
  | .ldAIndDE => [.d, .e]
  | .ldAIndHL => [.h, .l]
  | .ldHighCA => [.a, .c]
  | .ldhA8A _ => [.a]
  | .xorA => []
  | .incB => [.b]
  | .incC => [.c]
  | .incD => [.d]
  | .incE => [.e]
  | .incH => [.h]
  | .incL => [.l]
  | .incA => [.a]
  | .rla => [.a]
  | .rlB => [.b]
  | .rlC => [.c]
  | .rlD => [.d]
  | .rlE => [.e]
  | .rlH => [.h]
  | .rlL => [.l]
  | .rlA => [.a]
  | .bit7H => [.h]
  | .jrNZ _ => []
  | .pushBC => [.b, .c]
  | .pushDE => [.d, .e]
  | .pushHL => [.h, .l]
  | .popBC => []
  | .popDE => []
  | .popHL => []
  | .callA16 _ => []

/-- The instruction is RLA or an RL r: the ones that read the Carry flag (10_state.md R16). -/
def isRotate : Instr → Bool
  | .nop => false
  | .ldBCd16 _ => false
  | .ldDEd16 _ => false
  | .ldHLd16 _ => false
  | .ldSPd16 _ => false
  | .ldBd8 _ => false
  | .ldCd8 _ => false
  | .ldDd8 _ => false
  | .ldEd8 _ => false
  | .ldHd8 _ => false
  | .ldLd8 _ => false
  | .ldAd8 _ => false
  | .ldIndBCA => false
  | .ldIndDEA => false
  | .ldIndHLA => false
  | .ldIndHLDecA => false
  | .ldAIndBC => false
  | .ldAIndDE => false
  | .ldAIndHL => false
  | .ldHighCA => false
  | .ldhA8A _ => false
  | .xorA => false
  | .incB => false
  | .incC => false
  | .incD => false
  | .incE => false
  | .incH => false
  | .incL => false
  | .incA => false
  | .rla => true
  | .rlB => true
  | .rlC => true
  | .rlD => true
  | .rlE => true
  | .rlH => true
  | .rlL => true
  | .rlA => true
  | .bit7H => false
  | .jrNZ _ => false
  | .pushBC => false
  | .pushDE => false
  | .pushHL => false
  | .popBC => false
  | .popDE => false
  | .popHL => false
  | .callA16 _ => false

/-- The instruction is JR NZ,r8: the one that reads the Zero flag (10_state.md R16). -/
def isJump : Instr → Bool
  | .nop => false
  | .ldBCd16 _ => false
  | .ldDEd16 _ => false
  | .ldHLd16 _ => false
  | .ldSPd16 _ => false
  | .ldBd8 _ => false
  | .ldCd8 _ => false
  | .ldDd8 _ => false
  | .ldEd8 _ => false
  | .ldHd8 _ => false
  | .ldLd8 _ => false
  | .ldAd8 _ => false
  | .ldIndBCA => false
  | .ldIndDEA => false
  | .ldIndHLA => false
  | .ldIndHLDecA => false
  | .ldAIndBC => false
  | .ldAIndDE => false
  | .ldAIndHL => false
  | .ldHighCA => false
  | .ldhA8A _ => false
  | .xorA => false
  | .incB => false
  | .incC => false
  | .incD => false
  | .incE => false
  | .incH => false
  | .incL => false
  | .incA => false
  | .rla => false
  | .rlB => false
  | .rlC => false
  | .rlD => false
  | .rlE => false
  | .rlH => false
  | .rlL => false
  | .rlA => false
  | .bit7H => false
  | .jrNZ _ => true
  | .pushBC => false
  | .pushDE => false
  | .pushHL => false
  | .popBC => false
  | .popDE => false
  | .popHL => false
  | .callA16 _ => false

/-- What a flag is after an instruction (10_state.md R16, column "written by (and to what)"). -/
def flagAfterInc (s : State) (v : Byte) : Flag → Bool
  | .z => decide (v + 1 = 0)
  | .n => false
  | .h => decide (v.toNat % 16 = 15)
  | .c => s.f.getLsbD 4

def flagAfterRotate (s : State) (v : Byte) : Flag → Bool
  | .z => decide (v.toNat % 128 = 0 ∧ s.f.getLsbD 4 = false)
  | .n => false
  | .h => false
  | .c => v.getLsbD 7

def flagAfter (s : State) (fl : Flag) : Instr → Bool
  | .nop => s.flag fl
  | .ldBCd16 _ => s.flag fl
  | .ldDEd16 _ => s.flag fl
  | .ldHLd16 _ => s.flag fl
  | .ldSPd16 _ => s.flag fl
  | .ldBd8 _ => s.flag fl
  | .ldCd8 _ => s.flag fl
  | .ldDd8 _ => s.flag fl
  | .ldEd8 _ => s.flag fl
  | .ldHd8 _ => s.flag fl
  | .ldLd8 _ => s.flag fl
  | .ldAd8 _ => s.flag fl
  | .ldIndBCA => s.flag fl
  | .ldIndDEA => s.flag fl
  | .ldIndHLA => s.flag fl
  | .ldIndHLDecA => s.flag fl
  | .ldAIndBC => s.flag fl
  | .ldAIndDE => s.flag fl
  | .ldAIndHL => s.flag fl
  | .ldHighCA => s.flag fl
  | .ldhA8A _ => s.flag fl
  | .xorA => if fl = .z then true else s.flag fl
  | .incB => flagAfterInc s s.b fl
  | .incC => flagAfterInc s s.c fl
  | .incD => flagAfterInc s s.d fl
  | .incE => flagAfterInc s s.e fl
  | .incH => flagAfterInc s s.h fl
  | .incL => flagAfterInc s s.l fl
  | .incA => flagAfterInc s s.a fl
  | .rla => flagAfterRotate s s.a fl
  | .rlB => flagAfterRotate s s.b fl
  | .rlC => flagAfterRotate s s.c fl
  | .rlD => flagAfterRotate s s.d fl
  | .rlE => flagAfterRotate s s.e fl
  | .rlH => flagAfterRotate s s.h fl
  | .rlL => flagAfterRotate s s.l fl
  | .rlA => flagAfterRotate s s.a fl
  | .bit7H => match fl with | .z => !s.h.getLsbD 7 | .n => false | .h => true | .c => s.flag .c
  | .jrNZ _ => s.flag fl
  | .pushBC => s.flag fl
  | .pushDE => s.flag fl
  | .pushHL => s.flag fl
  | .popBC => s.flag fl
  | .popDE => s.flag fl
  | .popHL => s.flag fl
  | .callA16 _ => s.flag fl

/-- The cost an instruction writes to `cyc` (70_reset_and_hazards.md R260). -/
def costOf (s : State) : Instr → Nat
  | .nop => 4
  | .ldBCd16 _ => 12
  | .ldDEd16 _ => 12
  | .ldHLd16 _ => 12
  | .ldSPd16 _ => 12
  | .ldBd8 _ => 8
  | .ldCd8 _ => 8
  | .ldDd8 _ => 8
  | .ldEd8 _ => 8
  | .ldHd8 _ => 8
  | .ldLd8 _ => 8
  | .ldAd8 _ => 8
  | .ldIndBCA => 8
  | .ldIndDEA => 8
  | .ldIndHLA => 8
  | .ldIndHLDecA => 8
  | .ldAIndBC => 8
  | .ldAIndDE => 8
  | .ldAIndHL => 8
  | .ldHighCA => 8
  | .ldhA8A _ => 12
  | .xorA => 4
  | .incB => 4
  | .incC => 4
  | .incD => 4
  | .incE => 4
  | .incH => 4
  | .incL => 4
  | .incA => 4
  | .rla => 4
  | .rlB => 8
  | .rlC => 8
  | .rlD => 8
  | .rlE => 8
  | .rlH => 8
  | .rlL => 8
  | .rlA => 8
  | .bit7H => 8
  | .jrNZ _ => if s.f.getLsbD 7 then 8 else 12
  | .pushBC => 16
  | .pushDE => 16
  | .pushHL => 16
  | .popBC => 12
  | .popDE => 12
  | .popHL => 12
  | .callA16 _ => 12

/-- The pc after an instruction (10_state.md R19): past its own length, or where a control transfer sets it. -/
def pcAfter (s : State) : Instr → Word
  | .nop => s.pc + 1
  | .ldBCd16 _ => s.pc + 3
  | .ldDEd16 _ => s.pc + 3
  | .ldHLd16 _ => s.pc + 3
  | .ldSPd16 _ => s.pc + 3
  | .ldBd8 _ => s.pc + 2
  | .ldCd8 _ => s.pc + 2
  | .ldDd8 _ => s.pc + 2
  | .ldEd8 _ => s.pc + 2
  | .ldHd8 _ => s.pc + 2
  | .ldLd8 _ => s.pc + 2
  | .ldAd8 _ => s.pc + 2
  | .ldIndBCA => s.pc + 1
  | .ldIndDEA => s.pc + 1
  | .ldIndHLA => s.pc + 1
  | .ldIndHLDecA => s.pc + 1
  | .ldAIndBC => s.pc + 1
  | .ldAIndDE => s.pc + 1
  | .ldAIndHL => s.pc + 1
  | .ldHighCA => s.pc + 1
  | .ldhA8A _ => s.pc + 2
  | .xorA => s.pc + 1
  | .incB => s.pc + 1
  | .incC => s.pc + 1
  | .incD => s.pc + 1
  | .incE => s.pc + 1
  | .incH => s.pc + 1
  | .incL => s.pc + 1
  | .incA => s.pc + 1
  | .rla => s.pc + 1
  | .rlB => s.pc + 2
  | .rlC => s.pc + 2
  | .rlD => s.pc + 2
  | .rlE => s.pc + 2
  | .rlH => s.pc + 2
  | .rlL => s.pc + 2
  | .rlA => s.pc + 2
  | .bit7H => s.pc + 2
  | .jrNZ off => if s.f.getLsbD 7 then s.pc + 2 else s.pc + 2 + off.signExtend 16
  | .pushBC => s.pc + 1
  | .pushDE => s.pc + 1
  | .pushHL => s.pc + 1
  | .popBC => s.pc + 1
  | .popDE => s.pc + 1
  | .popHL => s.pc + 1
  | .callA16 target => target

/-- The sp after an instruction (10_state.md R21): written by LD SP,d16, the pushes, CALL and the pops only. -/
def spAfter (s : State) : Instr → Word
  | .nop => s.sp
  | .ldBCd16 _ => s.sp
  | .ldDEd16 _ => s.sp
  | .ldHLd16 _ => s.sp
  | .ldSPd16 imm => imm
  | .ldBd8 _ => s.sp
  | .ldCd8 _ => s.sp
  | .ldDd8 _ => s.sp
  | .ldEd8 _ => s.sp
  | .ldHd8 _ => s.sp
  | .ldLd8 _ => s.sp
  | .ldAd8 _ => s.sp
  | .ldIndBCA => s.sp
  | .ldIndDEA => s.sp
  | .ldIndHLA => s.sp
  | .ldIndHLDecA => s.sp
  | .ldAIndBC => s.sp
  | .ldAIndDE => s.sp
  | .ldAIndHL => s.sp
  | .ldHighCA => s.sp
  | .ldhA8A _ => s.sp
  | .xorA => s.sp
  | .incB => s.sp
  | .incC => s.sp
  | .incD => s.sp
  | .incE => s.sp
  | .incH => s.sp
  | .incL => s.sp
  | .incA => s.sp
  | .rla => s.sp
  | .rlB => s.sp
  | .rlC => s.sp
  | .rlD => s.sp
  | .rlE => s.sp
  | .rlH => s.sp
  | .rlL => s.sp
  | .rlA => s.sp
  | .bit7H => s.sp
  | .jrNZ _ => s.sp
  | .pushBC => s.sp - 2
  | .pushDE => s.sp - 2
  | .pushHL => s.sp - 2
  | .popBC => s.sp + 2
  | .popDE => s.sp + 2
  | .popHL => s.sp + 2
  | .callA16 _ => s.sp - 2

/-- The bytes an instruction writes (20_memory.md R62), each with its address, in the order it writes them. -/
def storesOf (s : State) : Instr → List (Word × Byte)
  | .nop => []
  | .ldBCd16 _ => []
  | .ldDEd16 _ => []
  | .ldHLd16 _ => []
  | .ldSPd16 _ => []
  | .ldBd8 _ => []
  | .ldCd8 _ => []
  | .ldDd8 _ => []
  | .ldEd8 _ => []
  | .ldHd8 _ => []
  | .ldLd8 _ => []
  | .ldAd8 _ => []
  | .ldIndBCA => [(s.pairAddr .bc, s.a)]
  | .ldIndDEA => [(s.pairAddr .de, s.a)]
  | .ldIndHLA => [(s.pairAddr .hl, s.a)]
  | .ldIndHLDecA => [(s.pairAddr .hl, s.a)]
  | .ldAIndBC => []
  | .ldAIndDE => []
  | .ldAIndHL => []
  | .ldHighCA => [(s.highPageRegAddr, s.a)]
  | .ldhA8A off => [(highPageImmAddr off, s.a)]
  | .xorA => []
  | .incB => []
  | .incC => []
  | .incD => []
  | .incE => []
  | .incH => []
  | .incL => []
  | .incA => []
  | .rla => []
  | .rlB => []
  | .rlC => []
  | .rlD => []
  | .rlE => []
  | .rlH => []
  | .rlL => []
  | .rlA => []
  | .bit7H => []
  | .jrNZ _ => []
  | .pushBC => [(s.sp - 1, s.b), (s.sp - 2, s.c)]
  | .pushDE => [(s.sp - 1, s.d), (s.sp - 2, s.e)]
  | .pushHL => [(s.sp - 1, s.h), (s.sp - 2, s.l)]
  | .popBC => []
  | .popDE => []
  | .popHL => []
  | .callA16 _ => [(s.sp - 1, hi (s.pc + 3)), (s.sp - 2, lo (s.pc + 3))]

/-- The addresses an instruction writes a byte to. -/
def storedTo (s : State) (i : Instr) : List Word := (storesOf s i).map Prod.fst

/-- The same outcome with `g` applied to the next state, if there is one. -/
def mapNext (g : State → State) : Host.Outcome State Fault Refusal → Host.Outcome State Fault Refusal
  | .next t => .next (g t)
  | .fault r => .fault r
  | .refused r => .refused r

/-- The push and the pop of a pair. -/
def pushOf : Pair → Instr
  | .bc => .pushBC
  | .de => .pushDE
  | .hl => .pushHL

def popOf : Pair → Instr
  | .bc => .popBC
  | .de => .popDE
  | .hl => .popHL

end Sys2Proof.Claims

open Sys2Proof Sys2Proof.Machine Sys2Proof.Claims

/-! ## The address/word library -/

/-- R40: the offset is two's-complement, the sum wraps at 16 bits; with the rule's three examples. -/
def Obligations.SignedOffsetAdditionWraps : Prop :=
  (∀ (base : Word) (offset : Byte),
    (offset.toNat ≤ 0x7F → (addSignedOffset base offset).toNat = (base.toNat + offset.toNat) % 65536) ∧
    (0x80 ≤ offset.toNat →
      (addSignedOffset base offset).toNat = (base.toNat + 65536 - (256 - offset.toNat)) % 65536)) ∧
  addSignedOffset 0x000C 0xFB = 0x0007 ∧ addSignedOffset 0x0001 0x80 = 0xFF81 ∧ addSignedOffset 0xFFFF 0x7F = 0x007E

/-- R41: the offset is unsigned, the sum wraps at 16 bits; from base 0xFF00 it is the byte pair 0xFF, offset; with the rule's
three examples. -/
def Obligations.UnsignedOffsetAdditionWraps : Prop :=
  (∀ (base : Word) (offset : Byte),
    (addUnsignedOffset base offset).toNat = (base.toNat + offset.toNat) % 65536) ∧
  (∀ offset : Byte, addUnsignedOffset 0xFF00 offset = (0xFF : Byte) ++ offset) ∧
  addUnsignedOffset 0xFF00 0x80 = 0xFF80 ∧ addUnsignedOffset 0xFF00 0xFF = 0xFFFF ∧
  addUnsignedOffset 0xFFF0 0x20 = 0x0010

/-- R42, R43: the word of a low and a high byte, and the round trip both ways, by component. -/
def Obligations.WordAndBytesRoundTrip : Prop :=
  (∀ low high : Byte, (wordFromBytes low high).toNat = 256 * high.toNat + low.toNat) ∧
  (∀ w : Word, (wordToBytes w).1.toNat = w.toNat / 256 ∧ (wordToBytes w).2.toNat = w.toNat % 256) ∧
  (∀ w : Word, wordFromBytes (wordToBytes w).2 (wordToBytes w).1 = w) ∧
  (∀ l h : Byte, wordToBytes (wordFromBytes l h) = (h, l))

/-! ## The address space -/

/-- R46: region dispatch, each region with its whole range of addresses. -/
def Obligations.RegionDispatchByAddress : Prop :=
  ∀ (m : Bool) (a : Word),
    (region m a = .boot ↔ a.toNat ≤ 0x00FF ∧ m = true) ∧
    (region m a = .bank0 ↔ a.toNat ≤ 0x3FFF ∧ ¬(a.toNat ≤ 0x00FF ∧ m = true)) ∧
    (region m a = .bank1 ↔ 0x4000 ≤ a.toNat ∧ a.toNat ≤ 0x7FFF) ∧
    (region m a = .vram ↔ 0x8000 ≤ a.toNat ∧ a.toNat ≤ 0x9FFF) ∧
    (region m a = .io ↔ 0xFF00 ≤ a.toNat ∧ a.toNat ≤ 0xFF7F) ∧
    (region m a = .hram ↔ 0xFF80 ≤ a.toNat ∧ a.toNat ≤ 0xFFFE) ∧
    (region m a = .unmapped ↔ (0xA000 ≤ a.toNat ∧ a.toNat ≤ 0xFEFF) ∨ a.toNat = 0xFFFF)

/-- R45: every address is in exactly one of the nine rows of the address map; and what a read gives and what a write does in
each of them (the two rows from 0x0100 to 0x7FFF, which are alike, in one clause). That the windows read 0x00 is the spec's
decision D8, that a write to ROM is dropped untraced its decision D9 (log entry 16), that the trace takes one record per byte
its decision D15, with `MODEL_WLOG` true as R5 has it (log entry 5). -/
def Obligations.AddressMapRows : Prop :=
  ∀ (s : State) (a : Word) (v : Byte),
    (mapRows s.bootMapped a).count true = 1 ∧
    (a.toNat ≤ 0x00FF ∧ s.bootMapped = true → s.readByte a = bootByte s a ∧ s.writeByte a v = s) ∧
    (a.toNat ≤ 0x00FF ∧ s.bootMapped = false → s.readByte a = cartByte s a ∧ s.writeByte a v = s) ∧
    (0x0100 ≤ a.toNat ∧ a.toNat ≤ 0x7FFF → s.readByte a = cartByte s a ∧ s.writeByte a v = s) ∧
    (0x8000 ≤ a.toNat ∧ a.toNat ≤ 0x9FFF →
      s.readByte a = 0 ∧ s.writeByte a v = { s with wlog := s.wlog ++ [(a, v)] }) ∧
    (0xA000 ≤ a.toNat ∧ a.toNat ≤ 0xFEFF → s.readByte a = 0 ∧ s.writeByte a v = s) ∧
    (0xFF00 ≤ a.toNat ∧ a.toNat ≤ 0xFF7F →
      s.readByte a = 0 ∧ s.writeByte a v = { s with wlog := s.wlog ++ [(a, v)] }) ∧
    (0xFF80 ≤ a.toNat ∧ a.toNat ≤ 0xFFFE →
      s.readByte a = hramByte s a ∧ hramByte (s.writeByte a v) a = v ∧
        s.writeByte a v = { s with hram := (s.writeByte a v).hram }) ∧
    (a.toNat = 0xFFFF → s.readByte a = 0 ∧ s.writeByte a v = s)

/-- R47: the index a read or a write uses lies in its array. -/
def Obligations.IndexWithinArray : Prop :=
  ∀ (m : Bool) (a : Word),
    (region m a = .boot → a.toNat ≤ 255) ∧
    (region m a = .bank0 → a.toNat ≤ 16383) ∧
    (region m a = .bank1 → 16384 ≤ a.toNat ∧ a.toNat ≤ 32767) ∧
    (region m a = .hram → 0xFF80 ≤ a.toNat ∧ a.toNat - 0xFF80 ≤ 126)

/-- What any read gives after any write: the byte written, at that high-RAM address; what it gave before, anywhere else. -/
def Obligations.ReadAfterWrite : Prop :=
  ∀ (s : State) (a a' : Word) (v : Byte),
    (InHighRam a → (s.writeByte a v).readByte a = v) ∧
    (a' ≠ a → (s.writeByte a v).readByte a' = s.readByte a') ∧
    (¬InHighRam a → (s.writeByte a v).readByte a' = s.readByte a')

/-- R49: the shadow of the boot ROM, and its end when the host clears the flag. -/
def Obligations.BootRomShadowsBankZero : Prop :=
  ∀ (s : State) (a : Word),
    (a.toNat ≤ 0x00FF → s.bootMapped = true → s.readByte a = bootByte s a) ∧
    (a.toNat ≤ 0x00FF → s.unmapBootRom.readByte a = cartByte s a) ∧
    (0x0100 ≤ a.toNat → s.unmapBootRom.readByte a = s.readByte a)

/-- R55: a word is read at two ascending addresses, the second wrapping, the byte at `addr` the low half. -/
def Obligations.WordReadLittleEndian : Prop :=
  ∀ (s : State) (a : Word),
    s.readWord a = s.readByte (a + 1) ++ s.readByte a ∧
    (s.readWord 0xFFFF).toNat = 256 * (s.readByte 0x0000).toNat + (s.readByte 0xFFFF).toNat

/-- R57: a word is written at two descending addresses; that the high byte goes first is the spec's decision D12 (log entry 14),
that the second address wraps its decision D11 (log entry 15). -/
def Obligations.WordWriteDescending : Prop :=
  ∀ (s : State) (a : Word) (v : Word),
    s.writeWordDesc a v = (s.writeByte a (hi v)).writeByte (a - 1) (lo v) ∧
    s.writeWordDesc 0x0000 v = (s.writeByte 0x0000 (hi v)).writeByte 0xFFFF (lo v)

/-- R58: the two word primitives fit: what was written at `a` reads back at `a - 1` when both bytes are in high RAM, and no
other byte changes wherever `a` is. -/
def Obligations.WordWrittenReadsBackBelow : Prop :=
  ∀ (s : State) (a : Word) (v : Word),
    (InHighRam a → InHighRam (a - 1) → (s.writeWordDesc a v).readWord (a - 1) = v) ∧
    ∀ a' : Word, a' ≠ a → a' ≠ a - 1 → (s.writeWordDesc a v).readByte a' = s.readByte a'

/-! ## Decoding and the step -/

/-- R100 to R102: a running machine whose bytes at the pc decode to `i` steps as `exec i` on the same state; nothing else is
done around it. -/
def Obligations.StepRunsDecodedInstruction : Prop :=
  ∀ (s : State) (i : Instr), s.status = .running →
    decodeBytes (s.readByte s.pc) (s.readByte (s.pc + 1)) (s.readByte (s.pc + 2)) = .ok i → step s = exec i s

/-- Decoding an encoded instruction gives it back, whatever bytes follow. -/
def Obligations.DecodeOfEncode : Prop :=
  ∀ (i : Instr) (rest : List Byte), decode (encode i ++ rest) = .ok (i, rest)

/-- The other direction: bytes that decode to `i` are the bytes of `i`, so no second encoding exists (R87). -/
def Obligations.EncodeOfDecode : Prop :=
  ∀ (b0 b1 b2 : Byte) (i : Instr), decodeBytes b0 b1 b2 = .ok i → [b0, b1, b2].take i.length = encode i

/-- A word of each family of 30_encoding.md R92's table, in its order, written out from the Encoding lines of the rules and read by
the decoder. The bytes 0x00, 0x31, 0xAF, 0xCB and 0x7C are the source's, every other opcode byte here is the spec's decision D1
(log entry 1). -/
def Obligations.SampleWordsDecode : Prop :=
  decode [0x00] = .ok (.nop, []) ∧
  decode [0x31, 0xFE, 0xFF, 0x00] = .ok (.ldSPd16 0xFFFE, [0x00]) ∧
  decode [0x01, 0x34, 0x12] = .ok (.ldBCd16 0x1234, []) ∧
  decode [0x06, 0x04] = .ok (.ldBd8 0x04, []) ∧
  decode [0x12] = .ok (.ldIndDEA, []) ∧
  decode [0x32] = .ok (.ldIndHLDecA, []) ∧
  decode [0x1A] = .ok (.ldAIndDE, []) ∧
  decode [0xAF] = .ok (.xorA, []) ∧
  decode [0x20, 0xFB] = .ok (.jrNZ 0xFB, []) ∧
  decode [0xCB, 0x7C] = .ok (.bit7H, []) ∧
  decode [0x24] = .ok (.incH, []) ∧
  decode [0x17] = .ok (.rla, []) ∧
  decode [0xCB, 0x11] = .ok (.rlC, []) ∧
  decode [0xC5] = .ok (.pushBC, []) ∧
  decode [0xC1] = .ok (.popBC, []) ∧
  decode [0xCD, 0x95, 0x00] = .ok (.callA16 0x0095, []) ∧
  decode [0xE2] = .ok (.ldHighCA, []) ∧
  decode [0xE0, 0x47] = .ok (.ldhA8A 0x47, [])

/-- R88, R89: the unassigned bytes of the two tables are exactly the ones listed; the spec marks both lists as derived from R86,
whose bytes are its decision D1 (log entry 1). -/
def Obligations.UnassignedBytesAreTheListed : Prop :=
  ∀ b0 b1 b2 : Byte,
    (b0 ≠ 0xCB →
      (decodeBytes b0 b1 b2 = .error { table := .normal, byte := b0 } ↔ inRanges b0 unassignedNormal)) ∧
    (decodeBytes 0xCB b1 b2 = .error { table := .extended, byte := b1 } ↔ inRanges b1 unassignedExtended)

/-- R91, R94: no two rows overlap, 0xCB is no row of the Normal table, and 0xFF is unassigned. -/
def Obligations.OpcodeMapWellFormed : Prop := opmap.wellFormed = true

/-- R103, R211, R212: an unassigned byte raises the decode fault for the table the first byte selects; only the status
changes, to the record of the table, the byte and the ten values before the step. That the record names the table and that
`cyc` is kept is the spec's decision D14 (log entry 11). -/
def Obligations.UnassignedByteTakesDecodeFault : Prop :=
  ∀ (s : State) (b : Byte),
    (AtOpcode s b → b ≠ 0xCB → inRanges b unassignedNormal →
      step s = .next { s with
        status := .faulted { table := .normal, byte := b,
                             snapshot := ⟨s.a, s.b, s.c, s.d, s.e, s.h, s.l, s.f, s.pc, s.sp⟩ } }) ∧
    (AtExtended s b → inRanges b unassignedExtended →
      step s = .next { s with
        status := .faulted { table := .extended, byte := b,
                             snapshot := ⟨s.a, s.b, s.c, s.d, s.e, s.h, s.l, s.f, s.pc, s.sp⟩ } })

/-- R213: whether a step faults, and with which table and byte, depends on the one or two bytes at the pc alone: two running
machines that agree on those bytes fault alike, whatever else differs. -/
def Obligations.FaultDependsOnFetchedBytesAlone : Prop :=
  ∀ (s s' : State) (u : Unassigned), s.status = .running → s'.status = .running →
    s.readByte s.pc = s'.readByte s'.pc →
    (s.readByte s.pc = 0xCB → s.readByte (s.pc + 1) = s'.readByte (s'.pc + 1)) →
    s.fetchDecode = .error u →
    step s = .next (s.raiseDecodeFault u) ∧ step s' = .next (s'.raiseDecodeFault u)

/-- R214: a faulted machine has no enabled step, whatever sequence of steps is asked of it; `reset()` makes it run from 0x0000
with every register zero. That the model answers `stopped` where no step is enabled is its own choice (log entry 11). -/
def Obligations.FaultedMachineTakesNoStep : Prop :=
  ∀ (s : State) (r : FaultRecord), s.status = .faulted r →
    step s = .fault (.stopped r) ∧
    (∀ n : Nat, s.hostMoves (List.replicate (n + 1) .step) = .fault (.stopped r)) ∧
    ∃ t, s.hostMove .reset = .next t ∧ t.status = .running ∧ t.pc = 0 ∧ ∀ r : Reg, t.readReg r = 0

/-! ## The instructions: where each completes, and in which state -/

/-- R120: NOP. -/
def Obligations.NopAdvancesPc : Prop :=
  RunsN1 0x00 .nop fun s => { s with cyc := 4, pc := s.pc + 1 }

/-- R124: LD SP,d16, with the byte the source gives it. -/
def Obligations.LoadStackPointer : Prop :=
  RunsN3 0x31 .ldSPd16 (fun s w => { s with sp := w, cyc := 12, pc := s.pc + 3 })

/-- R121 to R123: the immediate loads of a pair. The bytes are the spec's decision D1 (log entry 1). -/
def Obligations.ImmediatePairLoads : Prop :=
  RunsN3 0x01 .ldBCd16 (fun s w => { s with b := hi w, c := lo w, cyc := 12, pc := s.pc + 3 }) ∧
  RunsN3 0x11 .ldDEd16 (fun s w => { s with d := hi w, e := lo w, cyc := 12, pc := s.pc + 3 }) ∧
  RunsN3 0x21 .ldHLd16 (fun s w => { s with h := hi w, l := lo w, cyc := 12, pc := s.pc + 3 })

/-- R125 to R131: the immediate 8-bit loads. The bytes are the spec's decision D1 (log entry 1). -/
def Obligations.ImmediateByteLoads : Prop :=
  RunsN2 0x06 .ldBd8 (fun s v => { s with b := v, cyc := 8, pc := s.pc + 2 }) ∧
  RunsN2 0x0E .ldCd8 (fun s v => { s with c := v, cyc := 8, pc := s.pc + 2 }) ∧
  RunsN2 0x16 .ldDd8 (fun s v => { s with d := v, cyc := 8, pc := s.pc + 2 }) ∧
  RunsN2 0x1E .ldEd8 (fun s v => { s with e := v, cyc := 8, pc := s.pc + 2 }) ∧
  RunsN2 0x26 .ldHd8 (fun s v => { s with h := v, cyc := 8, pc := s.pc + 2 }) ∧
  RunsN2 0x2E .ldLd8 (fun s v => { s with l := v, cyc := 8, pc := s.pc + 2 }) ∧
  RunsN2 0x3E .ldAd8 (fun s v => { s with a := v, cyc := 8, pc := s.pc + 2 })

/-- R140 to R142: the stores through a pair; `writeByte` is what R45 says of each region. The bytes are the spec's decision D1
(log entry 1). -/
def Obligations.PairStores : Prop :=
  RunsN1 0x02 .ldIndBCA (fun s => { s.writeByte (s.b ++ s.c) s.a with cyc := 8, pc := s.pc + 1 }) ∧
  RunsN1 0x12 .ldIndDEA (fun s => { s.writeByte (s.d ++ s.e) s.a with cyc := 8, pc := s.pc + 1 }) ∧
  RunsN1 0x77 .ldIndHLA (fun s => { s.writeByte (s.h ++ s.l) s.a with cyc := 8, pc := s.pc + 1 })

/-- R143: the store uses the old HL; HL is then decremented, wrapping (decision D11, log entry 15). The byte is the spec's
decision D1 (log entry 1). -/
def Obligations.StoreAndDecrement : Prop :=
  RunsN1 0x32 .ldIndHLDecA fun s =>
    { s.writeByte (s.h ++ s.l) s.a with
      h := hi ((s.h ++ s.l : Word) - 1), l := lo ((s.h ++ s.l : Word) - 1), cyc := 8, pc := s.pc + 1 }

/-- R144 to R146: the loads through a pair; `readByte` is what R45 says of each region. The bytes are the spec's decision D1
(log entry 1). -/
def Obligations.PairLoads : Prop :=
  RunsN1 0x0A .ldAIndBC (fun s => { s with a := s.readByte (s.b ++ s.c), cyc := 8, pc := s.pc + 1 }) ∧
  RunsN1 0x1A .ldAIndDE (fun s => { s with a := s.readByte (s.d ++ s.e), cyc := 8, pc := s.pc + 1 }) ∧
  RunsN1 0x7E .ldAIndHL (fun s => { s with a := s.readByte (s.h ++ s.l), cyc := 8, pc := s.pc + 1 })

/-- R147, R148: the high-page stores, at the address whose high byte is 0xFF. The bytes are the spec's decision D1 (log entry
1). -/
def Obligations.HighPageStores : Prop :=
  RunsN1 0xE2 .ldHighCA (fun s => { s.writeByte ((0xFF : Byte) ++ s.c) s.a with cyc := 8, pc := s.pc + 1 }) ∧
  RunsN2 0xE0 .ldhA8A (fun s v => { s.writeByte ((0xFF : Byte) ++ v) s.a with cyc := 12, pc := s.pc + 2 })

/-- R160: XOR A with the default of `XOR_A_NHC`, and its register and flag effect under either value. That N, H and C are kept
is the spec's decision D6 (log entry 4). -/
def Obligations.XorAClearsAccumulator : Prop :=
  RunsN1 0xAF .xorA (fun s => { s with a := 0, f := s.f ||| 0x80, cyc := 4, pc := s.pc + 1 }) ∧
  ∀ s : State, s.xorAcc .retain = { s with a := 0, f := s.f ||| 0x80 } ∧
    s.xorAcc .clear = { s with a := 0, f := (s.f &&& 0x0F) ||| 0x80 }

/-- R161 to R167: the increments. The bytes are the spec's decision D1 (log entry 1), length and cost its decision D5
(log entry 3). -/
def Obligations.Increments : Prop :=
  RunsN1 0x04 .incB (fun s =>
    { s with b := s.b + 1, f := fAfterInc s.f s.b, cyc := 4, pc := s.pc + 1 }) ∧
  RunsN1 0x0C .incC (fun s =>
    { s with c := s.c + 1, f := fAfterInc s.f s.c, cyc := 4, pc := s.pc + 1 }) ∧
  RunsN1 0x14 .incD (fun s =>
    { s with d := s.d + 1, f := fAfterInc s.f s.d, cyc := 4, pc := s.pc + 1 }) ∧
  RunsN1 0x1C .incE (fun s =>
    { s with e := s.e + 1, f := fAfterInc s.f s.e, cyc := 4, pc := s.pc + 1 }) ∧
  RunsN1 0x24 .incH (fun s =>
    { s with h := s.h + 1, f := fAfterInc s.f s.h, cyc := 4, pc := s.pc + 1 }) ∧
  RunsN1 0x2C .incL (fun s =>
    { s with l := s.l + 1, f := fAfterInc s.f s.l, cyc := 4, pc := s.pc + 1 }) ∧
  RunsN1 0x3C .incA (fun s =>
    { s with a := s.a + 1, f := fAfterInc s.f s.a, cyc := 4, pc := s.pc + 1 })

/-- R168 to R175: the rotates left through carry, the accumulator form and the seven extended forms. The bytes are the spec's
decision D1 (log entry 1). -/
def Obligations.Rotates : Prop :=
  RunsN1 0x17 .rla (fun s =>
    { s with a := rotated s.f s.a, f := fAfterRotate s.f s.a, cyc := 4, pc := s.pc + 1 }) ∧
  RunsX2 0x10 .rlB (fun s =>
    { s with b := rotated s.f s.b, f := fAfterRotate s.f s.b, cyc := 8, pc := s.pc + 2 }) ∧
  RunsX2 0x11 .rlC (fun s =>
    { s with c := rotated s.f s.c, f := fAfterRotate s.f s.c, cyc := 8, pc := s.pc + 2 }) ∧
  RunsX2 0x12 .rlD (fun s =>
    { s with d := rotated s.f s.d, f := fAfterRotate s.f s.d, cyc := 8, pc := s.pc + 2 }) ∧
  RunsX2 0x13 .rlE (fun s =>
    { s with e := rotated s.f s.e, f := fAfterRotate s.f s.e, cyc := 8, pc := s.pc + 2 }) ∧
  RunsX2 0x14 .rlH (fun s =>
    { s with h := rotated s.f s.h, f := fAfterRotate s.f s.h, cyc := 8, pc := s.pc + 2 }) ∧
  RunsX2 0x15 .rlL (fun s =>
    { s with l := rotated s.f s.l, f := fAfterRotate s.f s.l, cyc := 8, pc := s.pc + 2 }) ∧
  RunsX2 0x17 .rlA (fun s =>
    { s with a := rotated s.f s.a, f := fAfterRotate s.f s.a, cyc := 8, pc := s.pc + 2 })

/-- R176: the bit test; H, the register, is not written. That a 1 in bit 7 clears Z is the spec's decision D7 (log entry 21). -/
def Obligations.BitTestOfH : Prop :=
  RunsX2 0x7C .bit7H fun s => { s with f := fAfterBit s.f s.h, cyc := 8, pc := s.pc + 2 }

/-- R190: the jump, relative to the following instruction, with its two costs. The byte is the spec's decision D1 (log entry 1),
the costs are its decision D4 (log entry 3). -/
def Obligations.JumpIfNotZero : Prop :=
  RunsN2 0x20 .jrNZ fun s off =>
    if s.f.getLsbD 7 then { s with cyc := 8, pc := s.pc + 2 }
    else { s with cyc := 12, pc := s.pc + 2 + off.signExtend 16 }

/-- R191 to R194: the pushes: high byte at sp - 1, low byte at sp - 2, the sp two lower. The bytes are the spec's decision D1
(log entry 1), the order of the two writes its decision D12 (log entry 14). -/
def Obligations.Pushes : Prop :=
  RunsN1 0xC5 .pushBC (fun s =>
    { (s.writeByte (s.sp - 1) s.b).writeByte (s.sp - 2) s.c with sp := s.sp - 2, cyc := 16, pc := s.pc + 1 }) ∧
  RunsN1 0xD5 .pushDE (fun s =>
    { (s.writeByte (s.sp - 1) s.d).writeByte (s.sp - 2) s.e with sp := s.sp - 2, cyc := 16, pc := s.pc + 1 }) ∧
  RunsN1 0xE5 .pushHL (fun s =>
    { (s.writeByte (s.sp - 1) s.h).writeByte (s.sp - 2) s.l with sp := s.sp - 2, cyc := 16, pc := s.pc + 1 })

/-- R199 to R201: the pops: low register from sp, high register from sp + 1, the sp two higher. The bytes are the spec's
decision D1 (log entry 1). -/
def Obligations.Pops : Prop :=
  RunsN1 0xC1 .popBC (fun s =>
    { s with b := s.readByte (s.sp + 1), c := s.readByte s.sp, sp := s.sp + 2, cyc := 12, pc := s.pc + 1 }) ∧
  RunsN1 0xD1 .popDE (fun s =>
    { s with d := s.readByte (s.sp + 1), e := s.readByte s.sp, sp := s.sp + 2, cyc := 12, pc := s.pc + 1 }) ∧
  RunsN1 0xE1 .popHL (fun s =>
    { s with h := s.readByte (s.sp + 1), l := s.readByte s.sp, sp := s.sp + 2, cyc := 12, pc := s.pc + 1 })

/-- R205: the call: the target is the word before the push (the spec's decision D13, log entry 14), the return address is pc +
3. The byte is its decision D1 (log entry 1), the cost 12 kept by its decision D20 (log entry 3). -/
def Obligations.Call : Prop :=
  RunsN3 0xCD .callA16 fun s w =>
    { (s.writeByte (s.sp - 1) (hi (s.pc + 3))).writeByte (s.sp - 2) (lo (s.pc + 3)) with
      sp := s.sp - 2, cyc := 12, pc := w }

/-! ## The ALU functions -/

/-- R110: `Inc8`, and the two forms of its half-carry agree. -/
def Obligations.IncrementFunction : Prop :=
  ∀ v : Byte,
    (inc8 v).res.toNat = (v.toNat + 1) % 256 ∧
    ((inc8 v).z = true ↔ (inc8 v).res = 0) ∧ (inc8 v).n = false ∧
    ((inc8 v).h = true ↔ (v ^^^ (inc8 v).res ^^^ 0x01) &&& 0x10 ≠ 0) ∧
    ((inc8 v).h = true ↔ v.toNat % 16 = 15)

/-- R111: `Rl9` is the rotation of the 9-bit quantity of carry and byte, so a bijection, and nine applications give back
what they started from (the spec's correction C2 of the source's eight), eight do not. -/
def Obligations.RotateHasPeriodNine : Prop :=
  let once : Byte × Bool → Byte × Bool := fun p => ((rl9 p.1 p.2).res, (rl9 p.1 p.2).c)
  (∀ (v : Byte) (cin : Bool),
    (rl9 v cin).res = v.extractLsb' 0 7 ++ BitVec.ofBool cin ∧ (rl9 v cin).c = v.getLsbD 7 ∧
    ((rl9 v cin).z = true ↔ (rl9 v cin).res = 0) ∧ (rl9 v cin).n = false ∧ (rl9 v cin).h = false) ∧
  Function.Bijective once ∧
  (∀ p, once^[9] p = p) ∧
  (∀ p, once^[8] p = p ↔ p = (0x00, false) ∨ p = (0xFF, true))

/-! ## Whole-machine rules -/

/-- No instruction can raise an exception once dispatched (R105 (d), which the spec marks as derived), from any state, a faulted
one included, where that `exec` answers is the model's choice (log entry 19). And a running machine always answers a next state:
at an assigned opcode by that (R102), at an unassigned one because the decode fault (R103, R212, the spec's decision D14) is a
next state, which is the model's choice (log entry 11). -/
def Obligations.EveryInstructionCompletes : Prop :=
  (∀ (i : Instr) (s : State), ∃ t, exec i s = .next t) ∧
  ∀ s : State, s.status = .running → ∃ t, step s = .next t

/-- R24, R260: `cyc` after any instruction is that instruction's own cost, whatever it was before. The costs of JR NZ and INC
are the spec's decisions D4 and D5 (log entry 3). -/
def Obligations.CycHoldsLastCost : Prop :=
  ∀ (i : Instr) (s t : State), exec i s = .next t → t.cyc.toNat = costOf s i

/-- R19: the pc after any instruction, wrapping: past its length, or where the two control transfers set it; no register and
no stack byte enters it (R20). That the addition wraps is the spec's decision D11 (log entry 15). -/
def Obligations.PcAfterInstruction : Prop :=
  ∀ (i : Instr) (s t : State), exec i s = .next t → t.pc = pcAfter s i

/-- R21: the sp after any instruction, wrapping (the spec's decision D11, log entry 15). -/
def Obligations.SpAfterInstruction : Prop :=
  ∀ (i : Instr) (s t : State), exec i s = .next t → t.sp = spAfter s i

/-- R16, R17: every flag after any instruction, the ones an instruction does not write kept; bits 3 to 0 of F are never
touched. That an instruction not listed keeps a flag is the spec's decision D6 (log entry 21). -/
def Obligations.FlagsAfterInstruction : Prop :=
  ∀ (i : Instr) (s t : State), exec i s = .next t →
    (∀ fl : Flag, t.flag fl = flagAfter s fl i) ∧ t.f &&& 0x0F = s.f &&& 0x0F

/-- R16, column "read by": an instruction's effect on everything but F does not depend on F, but for Z in JR NZ,r8 and C in
the rotates. -/
def Obligations.FlagsReadOnlyWhereListed : Prop :=
  ∀ (i : Instr) (s : State) (g : Byte),
    (isJump i = true → g.getLsbD 7 = s.f.getLsbD 7) →
    (isRotate i = true → g.getLsbD 4 = s.f.getLsbD 4) →
    mapNext (fun t => { t with f := 0 }) (exec i { s with f := g }) =
      mapNext (fun t => { t with f := 0 }) (exec i s)

/-- R12, column "written by", which the spec marks as derived: an operand register the table does not list for an instruction
keeps its value. -/
def Obligations.RegistersWrittenOnlyWhereListed : Prop :=
  ∀ (i : Instr) (s t : State) (r : Reg), exec i s = .next t → r ≠ .f → r ∉ writesReg i →
    t.readReg r = s.readReg r

/-- R12, column "read by", which the spec marks as derived: an operand register the table does not list for an instruction
changes nothing in what it does: with another value in it, a written register is overwritten all the same, an unwritten one
keeps the other value. -/
def Obligations.RegistersReadOnlyWhereListed : Prop :=
  ∀ (i : Instr) (s : State) (r : Reg) (v : Byte), r ≠ .f → r ∉ readsReg i →
    (r ∈ writesReg i → exec i (s.writeReg r v) = exec i s) ∧
    (r ∉ writesReg i → exec i (s.writeReg r v) = mapNext (fun t => t.writeReg r v) (exec i s))

/-- The memory frame of every instruction: a byte at an address it does not write to reads as before; one that writes nowhere
leaves high RAM and the trace as they were. -/
def Obligations.MemoryFrame : Prop :=
  ∀ (i : Instr) (s t : State), exec i s = .next t →
    (∀ a : Word, a ∉ storedTo s i → t.readByte a = s.readByte a) ∧
    (storedTo s i = [] → t.hram = s.hram ∧ t.wlog = s.wlog)

/-- R53: the 127 bytes of high RAM are all the writable memory: no step changes what any other address reads as. -/
def Obligations.OnlyHighRamChanges : Prop :=
  ∀ (s t : State) (a : Word), step s = .next t → ¬InHighRam a → t.readByte a = s.readByte a

/-- No step writes the boot flag or either image (R26, R48, R50). And a step is enabled in a running machine alone (R100, R214):
that a faulted one answers `stopped` and no next state is the model's choice (log entry 11). -/
def Obligations.RomAndBootFlagUntouched : Prop :=
  ∀ s t : State, step s = .next t →
    t.bootMapped = s.bootMapped ∧ t.bootRom = s.bootRom ∧ t.cartRom = s.cartRom ∧ s.status = .running

/-- R26: the boot flag is never set again, whatever the host does during a run. -/
def Obligations.BootFlagNeverRearmed : Prop :=
  ∀ (ms : List HostMove) (s t : State), s.bootMapped = false → s.hostMoves ms = .next t → t.bootMapped = false

/-- R28: the trace is append-only, an instruction adds one record (address, value) per byte it writes to a window, in the order it
writes them, and no other record (the spec's decision D15, log entry 5; the order within a push is its decision D12, log entry 14). -/
def Obligations.TraceAppendsWindowWrites : Prop :=
  ∀ (i : Instr) (s t : State), exec i s = .next t →
    t.wlog = s.wlog ++ (storesOf s i).filter fun r =>
      decide ((0x8000 ≤ r.1.toNat ∧ r.1.toNat ≤ 0x9FFF) ∨ (0xFF00 ≤ r.1.toNat ∧ r.1.toNat ≤ 0xFF7F))

/-- R198, R256: a push and then a pop of any two pairs moves the word and restores the sp, for every sp that keeps both bytes in
high RAM. -/
def Obligations.PushThenPop : Prop :=
  ∀ (s t u : State) (p q : Pair), 0xFF82 ≤ s.sp.toNat →
    exec (pushOf p) s = .next t → exec (popOf q) t = .next u →
    u.readPair q = s.readPair p ∧ u.sp = s.sp

/-- R66, which the spec marks as derived: a byte that a step's instruction stores in high RAM, whichever instruction it is, is what
the next step fetches from there, as its byte 0, 1 or 2 (the pc after the step being where the instruction left it). -/
def Obligations.StoreSeenByNextFetch : Prop :=
  ∀ (s t : State) (i : Instr) (r : Word × Byte), s.status = .running → s.fetchDecode = .ok i → step s = .next t →
    r ∈ storesOf s i → InHighRam r.1 →
    t.readByte r.1 = r.2 ∧ t.pc = pcAfter s i ∧
    (r.1 = pcAfter s i → AtOpcode t r.2 ∧ t.fetchDecode = decodeBytes r.2 (t.readByte (t.pc + 1)) (t.readByte (t.pc + 2))) ∧
    (r.1 = pcAfter s i + 1 → t.fetchDecode = decodeBytes (t.readByte t.pc) r.2 (t.readByte (t.pc + 2))) ∧
    (r.1 = pcAfter s i + 2 → t.fetchDecode = decodeBytes (t.readByte t.pc) (t.readByte (t.pc + 1)) r.2)

/-! ## Reset, the host, the invariant -/

/-- R33, R241: every piece of state after power-on with no image loaded, and after the host's `reset()` of a live machine in any
status: there the CPU is zero and the MMU is as it was (R34, the spec's decision D10, log entry 18). At power-on the boot ROM is
the parameter `BOOT_ROM` (the spec's decision D18) and high RAM the parameter `HRAM_INIT` (its decision D10), both free values of
the model (log entries 6, 7). -/
def Obligations.PowerOnAndResetValues : Prop :=
  ((∀ r : Reg, State.reset.readReg r = 0) ∧ (∀ fl : Flag, State.reset.flag fl = false) ∧
    State.reset.pc = 0x0000 ∧ State.reset.sp = 0x0000 ∧ State.reset.cyc = 0 ∧ State.reset.status = .running ∧
    State.reset.bootMapped = true ∧ State.reset.wlog = [] ∧
    (∀ a : Word, a.toNat ≤ 0x00FF → State.reset.readByte a = Config.bootRom a.toNat) ∧
    (∀ a : Word, InHighRam a → State.reset.readByte a = Config.hramInit (a.toNat - 0xFF80)) ∧
    (∀ a : Word, cartByte State.reset a = 0x00)) ∧
  ∀ s : State, ∃ t, s.hostMove .reset = .next t ∧
    (∀ r : Reg, t.readReg r = 0) ∧ t.pc = 0x0000 ∧ t.sp = 0x0000 ∧ t.cyc = 0 ∧ t.status = .running ∧
    t.bootMapped = s.bootMapped ∧ t.bootRom = s.bootRom ∧ t.cartRom = s.cartRom ∧ t.hram = s.hram ∧ t.wlog = s.wlog

/-- R246: after a load, byte i of the image is what the cartridge holds at address i, and bytes past 32 KiB are ignored; a
shorter image gives no machine (R6). The load keeps the invariant. -/
def Obligations.LoadedImageIsVisible : Prop :=
  ∀ (s : State) (image : List Byte),
    (image.length < 32768 → s.loadRom image = none) ∧
    (32768 ≤ image.length → ∃ t, s.loadRom image = some t ∧
      (∀ (a : Word) (v : Byte), a.toNat ≤ 0x7FFF → image[a.toNat]? = some v → cartByte t a = v) ∧
      Memory.wf .cart t.cartRom = true ∧ { t with cartRom := s.cartRom } = s ∧ (Inv s → Inv t))

/-- The invariant holds after power-on. -/
def Obligations.InvHoldsAtReset : Prop := Inv State.reset

/-- Every step keeps the invariant: the arrays stay canonical and inside their bounds, F's low bits stay zero, the trace
stays in the two windows, a fault record stays true of the machine, cyc stays a cost of the table. -/
def Obligations.StepKeepsInv : Prop :=
  ∀ s t : State, Inv s → step s = .next t → Inv t

/-- Every sequence of the host's moves keeps the invariant, so every state of every run has it. -/
def Obligations.EveryRunKeepsInv : Prop :=
  ∀ (ms : List HostMove) (s t : State), Inv s → s.hostMoves ms = .next t → Inv t

/-- R240, R6, vector H4: a machine constructed with a boot ROM of 256 bytes and a high RAM of 127 holds exactly them, is otherwise
the state after power-on, meets the invariant and is left as it is by `reset()`; other sizes give no machine, by the model's
`none` (log entry 20). That high RAM starts as a parameter is the spec's decision D10, the boot ROM's its decision D18. -/
def Obligations.ConstructedMachine : Prop :=
  ∀ boot hram : List Byte,
    (boot.length ≠ 256 → State.construct boot hram = none) ∧
    (hram.length ≠ 127 → State.construct boot hram = none) ∧
    (boot.length = 256 → hram.length = 127 → ∃ t, State.construct boot hram = some t ∧
      (∀ (a : Word) (v : Byte), boot[a.toNat]? = some v → t.readByte a = v) ∧
      (∀ (a : Word) (v : Byte), InHighRam a → hram[a.toNat - 0xFF80]? = some v → t.readByte a = v) ∧
      { t with bootRom := [], hram := [] } = State.reset ∧ Inv t ∧ t.hostMove .reset = .next t)
end

