-- ==== Sys2Proof/Laws/State.lean ====
section
/-! SUPPORT. The small lemmas of State's updates and accessors: one per field an update leaves alone, so that no later proof
unfolds a record update. -/

namespace Sys2Proof.Machine

/-! `finish` -/

@[simp] theorem finish_a (s : State) (len : Word) (cost : CycleCount) : (s.finish len cost).a = s.a := rfl
@[simp] theorem finish_b (s : State) (len : Word) (cost : CycleCount) : (s.finish len cost).b = s.b := rfl
@[simp] theorem finish_c (s : State) (len : Word) (cost : CycleCount) : (s.finish len cost).c = s.c := rfl
@[simp] theorem finish_d (s : State) (len : Word) (cost : CycleCount) : (s.finish len cost).d = s.d := rfl
@[simp] theorem finish_e (s : State) (len : Word) (cost : CycleCount) : (s.finish len cost).e = s.e := rfl
@[simp] theorem finish_h (s : State) (len : Word) (cost : CycleCount) : (s.finish len cost).h = s.h := rfl
@[simp] theorem finish_l (s : State) (len : Word) (cost : CycleCount) : (s.finish len cost).l = s.l := rfl
@[simp] theorem finish_f (s : State) (len : Word) (cost : CycleCount) : (s.finish len cost).f = s.f := rfl
@[simp] theorem finish_pc (s : State) (len : Word) (cost : CycleCount) : (s.finish len cost).pc = s.pc + len := rfl
@[simp] theorem finish_sp (s : State) (len : Word) (cost : CycleCount) : (s.finish len cost).sp = s.sp := rfl
@[simp] theorem finish_cyc (s : State) (len : Word) (cost : CycleCount) : (s.finish len cost).cyc = cost := rfl
@[simp] theorem finish_bootMapped (s : State) (len : Word) (cost : CycleCount) : (s.finish len cost).bootMapped = s.bootMapped := rfl
@[simp] theorem finish_bootRom (s : State) (len : Word) (cost : CycleCount) : (s.finish len cost).bootRom = s.bootRom := rfl
@[simp] theorem finish_cartRom (s : State) (len : Word) (cost : CycleCount) : (s.finish len cost).cartRom = s.cartRom := rfl
@[simp] theorem finish_hram (s : State) (len : Word) (cost : CycleCount) : (s.finish len cost).hram = s.hram := rfl
@[simp] theorem finish_wlog (s : State) (len : Word) (cost : CycleCount) : (s.finish len cost).wlog = s.wlog := rfl
@[simp] theorem finish_status (s : State) (len : Word) (cost : CycleCount) : (s.finish len cost).status = s.status := rfl

/-! `jump` -/

@[simp] theorem jump_a (s : State) (target : Word) (cost : CycleCount) : (s.jump target cost).a = s.a := rfl
@[simp] theorem jump_b (s : State) (target : Word) (cost : CycleCount) : (s.jump target cost).b = s.b := rfl
@[simp] theorem jump_c (s : State) (target : Word) (cost : CycleCount) : (s.jump target cost).c = s.c := rfl
@[simp] theorem jump_d (s : State) (target : Word) (cost : CycleCount) : (s.jump target cost).d = s.d := rfl
@[simp] theorem jump_e (s : State) (target : Word) (cost : CycleCount) : (s.jump target cost).e = s.e := rfl
@[simp] theorem jump_h (s : State) (target : Word) (cost : CycleCount) : (s.jump target cost).h = s.h := rfl
@[simp] theorem jump_l (s : State) (target : Word) (cost : CycleCount) : (s.jump target cost).l = s.l := rfl
@[simp] theorem jump_f (s : State) (target : Word) (cost : CycleCount) : (s.jump target cost).f = s.f := rfl
@[simp] theorem jump_pc (s : State) (target : Word) (cost : CycleCount) : (s.jump target cost).pc = target := rfl
@[simp] theorem jump_sp (s : State) (target : Word) (cost : CycleCount) : (s.jump target cost).sp = s.sp := rfl
@[simp] theorem jump_cyc (s : State) (target : Word) (cost : CycleCount) : (s.jump target cost).cyc = cost := rfl
@[simp] theorem jump_bootMapped (s : State) (target : Word) (cost : CycleCount) : (s.jump target cost).bootMapped = s.bootMapped := rfl
@[simp] theorem jump_bootRom (s : State) (target : Word) (cost : CycleCount) : (s.jump target cost).bootRom = s.bootRom := rfl
@[simp] theorem jump_cartRom (s : State) (target : Word) (cost : CycleCount) : (s.jump target cost).cartRom = s.cartRom := rfl
@[simp] theorem jump_hram (s : State) (target : Word) (cost : CycleCount) : (s.jump target cost).hram = s.hram := rfl
@[simp] theorem jump_wlog (s : State) (target : Word) (cost : CycleCount) : (s.jump target cost).wlog = s.wlog := rfl
@[simp] theorem jump_status (s : State) (target : Word) (cost : CycleCount) : (s.jump target cost).status = s.status := rfl

/-! `setFlag` -/

@[simp] theorem setFlag_a (s : State) (fl : Flag) (v : Bool) : (s.setFlag fl v).a = s.a := rfl
@[simp] theorem setFlag_b (s : State) (fl : Flag) (v : Bool) : (s.setFlag fl v).b = s.b := rfl
@[simp] theorem setFlag_c (s : State) (fl : Flag) (v : Bool) : (s.setFlag fl v).c = s.c := rfl
@[simp] theorem setFlag_d (s : State) (fl : Flag) (v : Bool) : (s.setFlag fl v).d = s.d := rfl
@[simp] theorem setFlag_e (s : State) (fl : Flag) (v : Bool) : (s.setFlag fl v).e = s.e := rfl
@[simp] theorem setFlag_h (s : State) (fl : Flag) (v : Bool) : (s.setFlag fl v).h = s.h := rfl
@[simp] theorem setFlag_l (s : State) (fl : Flag) (v : Bool) : (s.setFlag fl v).l = s.l := rfl
@[simp] theorem setFlag_f (s : State) (fl : Flag) (v : Bool) : (s.setFlag fl v).f = if v then s.f ||| fl.mask else s.f &&& ~~~fl.mask := rfl
@[simp] theorem setFlag_pc (s : State) (fl : Flag) (v : Bool) : (s.setFlag fl v).pc = s.pc := rfl
@[simp] theorem setFlag_sp (s : State) (fl : Flag) (v : Bool) : (s.setFlag fl v).sp = s.sp := rfl
@[simp] theorem setFlag_cyc (s : State) (fl : Flag) (v : Bool) : (s.setFlag fl v).cyc = s.cyc := rfl
@[simp] theorem setFlag_bootMapped (s : State) (fl : Flag) (v : Bool) : (s.setFlag fl v).bootMapped = s.bootMapped := rfl
@[simp] theorem setFlag_bootRom (s : State) (fl : Flag) (v : Bool) : (s.setFlag fl v).bootRom = s.bootRom := rfl
@[simp] theorem setFlag_cartRom (s : State) (fl : Flag) (v : Bool) : (s.setFlag fl v).cartRom = s.cartRom := rfl
@[simp] theorem setFlag_hram (s : State) (fl : Flag) (v : Bool) : (s.setFlag fl v).hram = s.hram := rfl
@[simp] theorem setFlag_wlog (s : State) (fl : Flag) (v : Bool) : (s.setFlag fl v).wlog = s.wlog := rfl
@[simp] theorem setFlag_status (s : State) (fl : Flag) (v : Bool) : (s.setFlag fl v).status = s.status := rfl

/-! `dropWord` -/

@[simp] theorem dropWord_a (s : State) : (s.dropWord).a = s.a := rfl
@[simp] theorem dropWord_b (s : State) : (s.dropWord).b = s.b := rfl
@[simp] theorem dropWord_c (s : State) : (s.dropWord).c = s.c := rfl
@[simp] theorem dropWord_d (s : State) : (s.dropWord).d = s.d := rfl
@[simp] theorem dropWord_e (s : State) : (s.dropWord).e = s.e := rfl
@[simp] theorem dropWord_h (s : State) : (s.dropWord).h = s.h := rfl
@[simp] theorem dropWord_l (s : State) : (s.dropWord).l = s.l := rfl
@[simp] theorem dropWord_f (s : State) : (s.dropWord).f = s.f := rfl
@[simp] theorem dropWord_pc (s : State) : (s.dropWord).pc = s.pc := rfl
@[simp] theorem dropWord_sp (s : State) : (s.dropWord).sp = s.sp + 2 := rfl
@[simp] theorem dropWord_cyc (s : State) : (s.dropWord).cyc = s.cyc := rfl
@[simp] theorem dropWord_bootMapped (s : State) : (s.dropWord).bootMapped = s.bootMapped := rfl
@[simp] theorem dropWord_bootRom (s : State) : (s.dropWord).bootRom = s.bootRom := rfl
@[simp] theorem dropWord_cartRom (s : State) : (s.dropWord).cartRom = s.cartRom := rfl
@[simp] theorem dropWord_hram (s : State) : (s.dropWord).hram = s.hram := rfl
@[simp] theorem dropWord_wlog (s : State) : (s.dropWord).wlog = s.wlog := rfl
@[simp] theorem dropWord_status (s : State) : (s.dropWord).status = s.status := rfl

/-! `trace` -/

@[simp] theorem trace_a (s : State) (a : Word) (v : Byte) : (s.trace a v).a = s.a := rfl
@[simp] theorem trace_b (s : State) (a : Word) (v : Byte) : (s.trace a v).b = s.b := rfl
@[simp] theorem trace_c (s : State) (a : Word) (v : Byte) : (s.trace a v).c = s.c := rfl
@[simp] theorem trace_d (s : State) (a : Word) (v : Byte) : (s.trace a v).d = s.d := rfl
@[simp] theorem trace_e (s : State) (a : Word) (v : Byte) : (s.trace a v).e = s.e := rfl
@[simp] theorem trace_h (s : State) (a : Word) (v : Byte) : (s.trace a v).h = s.h := rfl
@[simp] theorem trace_l (s : State) (a : Word) (v : Byte) : (s.trace a v).l = s.l := rfl
@[simp] theorem trace_f (s : State) (a : Word) (v : Byte) : (s.trace a v).f = s.f := rfl
@[simp] theorem trace_pc (s : State) (a : Word) (v : Byte) : (s.trace a v).pc = s.pc := rfl
@[simp] theorem trace_sp (s : State) (a : Word) (v : Byte) : (s.trace a v).sp = s.sp := rfl
@[simp] theorem trace_cyc (s : State) (a : Word) (v : Byte) : (s.trace a v).cyc = s.cyc := rfl
@[simp] theorem trace_bootMapped (s : State) (a : Word) (v : Byte) : (s.trace a v).bootMapped = s.bootMapped := rfl
@[simp] theorem trace_bootRom (s : State) (a : Word) (v : Byte) : (s.trace a v).bootRom = s.bootRom := rfl
@[simp] theorem trace_cartRom (s : State) (a : Word) (v : Byte) : (s.trace a v).cartRom = s.cartRom := rfl
@[simp] theorem trace_hram (s : State) (a : Word) (v : Byte) : (s.trace a v).hram = s.hram := rfl
@[simp] theorem trace_wlog (s : State) (a : Word) (v : Byte) : (s.trace a v).wlog = s.wlog ++ [(a, v)] := rfl
@[simp] theorem trace_status (s : State) (a : Word) (v : Byte) : (s.trace a v).status = s.status := rfl

/-! `raiseDecodeFault` -/

@[simp] theorem raiseDecodeFault_a (s : State) (u : Unassigned) : (s.raiseDecodeFault u).a = s.a := rfl
@[simp] theorem raiseDecodeFault_b (s : State) (u : Unassigned) : (s.raiseDecodeFault u).b = s.b := rfl
@[simp] theorem raiseDecodeFault_c (s : State) (u : Unassigned) : (s.raiseDecodeFault u).c = s.c := rfl
@[simp] theorem raiseDecodeFault_d (s : State) (u : Unassigned) : (s.raiseDecodeFault u).d = s.d := rfl
@[simp] theorem raiseDecodeFault_e (s : State) (u : Unassigned) : (s.raiseDecodeFault u).e = s.e := rfl
@[simp] theorem raiseDecodeFault_h (s : State) (u : Unassigned) : (s.raiseDecodeFault u).h = s.h := rfl
@[simp] theorem raiseDecodeFault_l (s : State) (u : Unassigned) : (s.raiseDecodeFault u).l = s.l := rfl
@[simp] theorem raiseDecodeFault_f (s : State) (u : Unassigned) : (s.raiseDecodeFault u).f = s.f := rfl
@[simp] theorem raiseDecodeFault_pc (s : State) (u : Unassigned) : (s.raiseDecodeFault u).pc = s.pc := rfl
@[simp] theorem raiseDecodeFault_sp (s : State) (u : Unassigned) : (s.raiseDecodeFault u).sp = s.sp := rfl
@[simp] theorem raiseDecodeFault_cyc (s : State) (u : Unassigned) : (s.raiseDecodeFault u).cyc = s.cyc := rfl
@[simp] theorem raiseDecodeFault_bootMapped (s : State) (u : Unassigned) : (s.raiseDecodeFault u).bootMapped = s.bootMapped := rfl
@[simp] theorem raiseDecodeFault_bootRom (s : State) (u : Unassigned) : (s.raiseDecodeFault u).bootRom = s.bootRom := rfl
@[simp] theorem raiseDecodeFault_cartRom (s : State) (u : Unassigned) : (s.raiseDecodeFault u).cartRom = s.cartRom := rfl
@[simp] theorem raiseDecodeFault_hram (s : State) (u : Unassigned) : (s.raiseDecodeFault u).hram = s.hram := rfl
@[simp] theorem raiseDecodeFault_wlog (s : State) (u : Unassigned) : (s.raiseDecodeFault u).wlog = s.wlog := rfl
@[simp] theorem raiseDecodeFault_status (s : State) (u : Unassigned) : (s.raiseDecodeFault u).status = .faulted { table := u.table, byte := u.byte, snapshot := s.snapshot } := rfl

/-! `writeReg` -/

@[simp] theorem writeReg_pc (s : State) (r : Reg) (v : Byte) : (s.writeReg r v).pc = s.pc := by cases r <;> rfl
@[simp] theorem writeReg_sp (s : State) (r : Reg) (v : Byte) : (s.writeReg r v).sp = s.sp := by cases r <;> rfl
@[simp] theorem writeReg_cyc (s : State) (r : Reg) (v : Byte) : (s.writeReg r v).cyc = s.cyc := by cases r <;> rfl
@[simp] theorem writeReg_bootMapped (s : State) (r : Reg) (v : Byte) : (s.writeReg r v).bootMapped = s.bootMapped := by cases r <;> rfl
@[simp] theorem writeReg_bootRom (s : State) (r : Reg) (v : Byte) : (s.writeReg r v).bootRom = s.bootRom := by cases r <;> rfl
@[simp] theorem writeReg_cartRom (s : State) (r : Reg) (v : Byte) : (s.writeReg r v).cartRom = s.cartRom := by cases r <;> rfl
@[simp] theorem writeReg_hram (s : State) (r : Reg) (v : Byte) : (s.writeReg r v).hram = s.hram := by cases r <;> rfl
@[simp] theorem writeReg_wlog (s : State) (r : Reg) (v : Byte) : (s.writeReg r v).wlog = s.wlog := by cases r <;> rfl
@[simp] theorem writeReg_status (s : State) (r : Reg) (v : Byte) : (s.writeReg r v).status = s.status := by cases r <;> rfl

/-! `writePair` -/

@[simp] theorem writePair_a (s : State) (p : Pair) (w : Word) : (s.writePair p w).a = s.a := by cases p <;> rfl
@[simp] theorem writePair_f (s : State) (p : Pair) (w : Word) : (s.writePair p w).f = s.f := by cases p <;> rfl
@[simp] theorem writePair_pc (s : State) (p : Pair) (w : Word) : (s.writePair p w).pc = s.pc := by cases p <;> rfl
@[simp] theorem writePair_sp (s : State) (p : Pair) (w : Word) : (s.writePair p w).sp = s.sp := by cases p <;> rfl
@[simp] theorem writePair_cyc (s : State) (p : Pair) (w : Word) : (s.writePair p w).cyc = s.cyc := by cases p <;> rfl
@[simp] theorem writePair_bootMapped (s : State) (p : Pair) (w : Word) : (s.writePair p w).bootMapped = s.bootMapped := by cases p <;> rfl
@[simp] theorem writePair_bootRom (s : State) (p : Pair) (w : Word) : (s.writePair p w).bootRom = s.bootRom := by cases p <;> rfl
@[simp] theorem writePair_cartRom (s : State) (p : Pair) (w : Word) : (s.writePair p w).cartRom = s.cartRom := by cases p <;> rfl
@[simp] theorem writePair_hram (s : State) (p : Pair) (w : Word) : (s.writePair p w).hram = s.hram := by cases p <;> rfl
@[simp] theorem writePair_wlog (s : State) (p : Pair) (w : Word) : (s.writePair p w).wlog = s.wlog := by cases p <;> rfl
@[simp] theorem writePair_status (s : State) (p : Pair) (w : Word) : (s.writePair p w).status = s.status := by cases p <;> rfl

/-! `writeByte` -/

@[simp] theorem writeByte_a (s : State) (a : Word) (v : Byte) : (s.writeByte a v).a = s.a := by unfold State.writeByte; split <;> rfl
@[simp] theorem writeByte_b (s : State) (a : Word) (v : Byte) : (s.writeByte a v).b = s.b := by unfold State.writeByte; split <;> rfl
@[simp] theorem writeByte_c (s : State) (a : Word) (v : Byte) : (s.writeByte a v).c = s.c := by unfold State.writeByte; split <;> rfl
@[simp] theorem writeByte_d (s : State) (a : Word) (v : Byte) : (s.writeByte a v).d = s.d := by unfold State.writeByte; split <;> rfl
@[simp] theorem writeByte_e (s : State) (a : Word) (v : Byte) : (s.writeByte a v).e = s.e := by unfold State.writeByte; split <;> rfl
@[simp] theorem writeByte_h (s : State) (a : Word) (v : Byte) : (s.writeByte a v).h = s.h := by unfold State.writeByte; split <;> rfl
@[simp] theorem writeByte_l (s : State) (a : Word) (v : Byte) : (s.writeByte a v).l = s.l := by unfold State.writeByte; split <;> rfl
@[simp] theorem writeByte_f (s : State) (a : Word) (v : Byte) : (s.writeByte a v).f = s.f := by unfold State.writeByte; split <;> rfl
@[simp] theorem writeByte_pc (s : State) (a : Word) (v : Byte) : (s.writeByte a v).pc = s.pc := by unfold State.writeByte; split <;> rfl
@[simp] theorem writeByte_sp (s : State) (a : Word) (v : Byte) : (s.writeByte a v).sp = s.sp := by unfold State.writeByte; split <;> rfl
@[simp] theorem writeByte_cyc (s : State) (a : Word) (v : Byte) : (s.writeByte a v).cyc = s.cyc := by unfold State.writeByte; split <;> rfl
@[simp] theorem writeByte_bootMapped (s : State) (a : Word) (v : Byte) : (s.writeByte a v).bootMapped = s.bootMapped := by unfold State.writeByte; split <;> rfl
@[simp] theorem writeByte_bootRom (s : State) (a : Word) (v : Byte) : (s.writeByte a v).bootRom = s.bootRom := by unfold State.writeByte; split <;> rfl
@[simp] theorem writeByte_cartRom (s : State) (a : Word) (v : Byte) : (s.writeByte a v).cartRom = s.cartRom := by unfold State.writeByte; split <;> rfl
@[simp] theorem writeByte_status (s : State) (a : Word) (v : Byte) : (s.writeByte a v).status = s.status := by unfold State.writeByte; split <;> rfl

/-! `writeWordDesc` -/

@[simp] theorem writeWordDesc_a (s : State) (a w : Word) : (s.writeWordDesc a w).a = s.a := by simp [State.writeWordDesc]
@[simp] theorem writeWordDesc_b (s : State) (a w : Word) : (s.writeWordDesc a w).b = s.b := by simp [State.writeWordDesc]
@[simp] theorem writeWordDesc_c (s : State) (a w : Word) : (s.writeWordDesc a w).c = s.c := by simp [State.writeWordDesc]
@[simp] theorem writeWordDesc_d (s : State) (a w : Word) : (s.writeWordDesc a w).d = s.d := by simp [State.writeWordDesc]
@[simp] theorem writeWordDesc_e (s : State) (a w : Word) : (s.writeWordDesc a w).e = s.e := by simp [State.writeWordDesc]
@[simp] theorem writeWordDesc_h (s : State) (a w : Word) : (s.writeWordDesc a w).h = s.h := by simp [State.writeWordDesc]
@[simp] theorem writeWordDesc_l (s : State) (a w : Word) : (s.writeWordDesc a w).l = s.l := by simp [State.writeWordDesc]
@[simp] theorem writeWordDesc_f (s : State) (a w : Word) : (s.writeWordDesc a w).f = s.f := by simp [State.writeWordDesc]
@[simp] theorem writeWordDesc_pc (s : State) (a w : Word) : (s.writeWordDesc a w).pc = s.pc := by simp [State.writeWordDesc]
@[simp] theorem writeWordDesc_sp (s : State) (a w : Word) : (s.writeWordDesc a w).sp = s.sp := by simp [State.writeWordDesc]
@[simp] theorem writeWordDesc_cyc (s : State) (a w : Word) : (s.writeWordDesc a w).cyc = s.cyc := by simp [State.writeWordDesc]
@[simp] theorem writeWordDesc_bootMapped (s : State) (a w : Word) : (s.writeWordDesc a w).bootMapped = s.bootMapped := by simp [State.writeWordDesc]
@[simp] theorem writeWordDesc_bootRom (s : State) (a w : Word) : (s.writeWordDesc a w).bootRom = s.bootRom := by simp [State.writeWordDesc]
@[simp] theorem writeWordDesc_cartRom (s : State) (a w : Word) : (s.writeWordDesc a w).cartRom = s.cartRom := by simp [State.writeWordDesc]
@[simp] theorem writeWordDesc_status (s : State) (a w : Word) : (s.writeWordDesc a w).status = s.status := by simp [State.writeWordDesc]

/-! `push` -/

@[simp] theorem push_a (s : State) (w : Word) : (s.push w).a = s.a := by simp [State.push]
@[simp] theorem push_b (s : State) (w : Word) : (s.push w).b = s.b := by simp [State.push]
@[simp] theorem push_c (s : State) (w : Word) : (s.push w).c = s.c := by simp [State.push]
@[simp] theorem push_d (s : State) (w : Word) : (s.push w).d = s.d := by simp [State.push]
@[simp] theorem push_e (s : State) (w : Word) : (s.push w).e = s.e := by simp [State.push]
@[simp] theorem push_h (s : State) (w : Word) : (s.push w).h = s.h := by simp [State.push]
@[simp] theorem push_l (s : State) (w : Word) : (s.push w).l = s.l := by simp [State.push]
@[simp] theorem push_f (s : State) (w : Word) : (s.push w).f = s.f := by simp [State.push]
@[simp] theorem push_pc (s : State) (w : Word) : (s.push w).pc = s.pc := by simp [State.push]
@[simp] theorem push_sp (s : State) (w : Word) : (s.push w).sp = s.sp - 2 := by simp [State.push]
@[simp] theorem push_cyc (s : State) (w : Word) : (s.push w).cyc = s.cyc := by simp [State.push]
@[simp] theorem push_bootMapped (s : State) (w : Word) : (s.push w).bootMapped = s.bootMapped := by simp [State.push]
@[simp] theorem push_bootRom (s : State) (w : Word) : (s.push w).bootRom = s.bootRom := by simp [State.push]
@[simp] theorem push_cartRom (s : State) (w : Word) : (s.push w).cartRom = s.cartRom := by simp [State.push]
@[simp] theorem push_status (s : State) (w : Word) : (s.push w).status = s.status := by simp [State.push]

/-! `incReg` -/

@[simp] theorem incReg_pc (s : State) (r : Reg) : (s.incReg r).pc = s.pc := by simp [State.incReg]
@[simp] theorem incReg_sp (s : State) (r : Reg) : (s.incReg r).sp = s.sp := by simp [State.incReg]
@[simp] theorem incReg_cyc (s : State) (r : Reg) : (s.incReg r).cyc = s.cyc := by simp [State.incReg]
@[simp] theorem incReg_bootMapped (s : State) (r : Reg) : (s.incReg r).bootMapped = s.bootMapped := by simp [State.incReg]
@[simp] theorem incReg_bootRom (s : State) (r : Reg) : (s.incReg r).bootRom = s.bootRom := by simp [State.incReg]
@[simp] theorem incReg_cartRom (s : State) (r : Reg) : (s.incReg r).cartRom = s.cartRom := by simp [State.incReg]
@[simp] theorem incReg_hram (s : State) (r : Reg) : (s.incReg r).hram = s.hram := by simp [State.incReg]
@[simp] theorem incReg_wlog (s : State) (r : Reg) : (s.incReg r).wlog = s.wlog := by simp [State.incReg]
@[simp] theorem incReg_status (s : State) (r : Reg) : (s.incReg r).status = s.status := by simp [State.incReg]

/-! `rotateReg` -/

@[simp] theorem rotateReg_pc (s : State) (r : Reg) : (s.rotateReg r).pc = s.pc := by simp [State.rotateReg]
@[simp] theorem rotateReg_sp (s : State) (r : Reg) : (s.rotateReg r).sp = s.sp := by simp [State.rotateReg]
@[simp] theorem rotateReg_cyc (s : State) (r : Reg) : (s.rotateReg r).cyc = s.cyc := by simp [State.rotateReg]
@[simp] theorem rotateReg_bootMapped (s : State) (r : Reg) : (s.rotateReg r).bootMapped = s.bootMapped := by simp [State.rotateReg]
@[simp] theorem rotateReg_bootRom (s : State) (r : Reg) : (s.rotateReg r).bootRom = s.bootRom := by simp [State.rotateReg]
@[simp] theorem rotateReg_cartRom (s : State) (r : Reg) : (s.rotateReg r).cartRom = s.cartRom := by simp [State.rotateReg]
@[simp] theorem rotateReg_hram (s : State) (r : Reg) : (s.rotateReg r).hram = s.hram := by simp [State.rotateReg]
@[simp] theorem rotateReg_wlog (s : State) (r : Reg) : (s.rotateReg r).wlog = s.wlog := by simp [State.rotateReg]
@[simp] theorem rotateReg_status (s : State) (r : Reg) : (s.rotateReg r).status = s.status := by simp [State.rotateReg]

/-! `testBit7` -/

@[simp] theorem testBit7_a (s : State) (r : Reg) : (s.testBit7 r).a = s.a := by simp [State.testBit7]
@[simp] theorem testBit7_b (s : State) (r : Reg) : (s.testBit7 r).b = s.b := by simp [State.testBit7]
@[simp] theorem testBit7_c (s : State) (r : Reg) : (s.testBit7 r).c = s.c := by simp [State.testBit7]
@[simp] theorem testBit7_d (s : State) (r : Reg) : (s.testBit7 r).d = s.d := by simp [State.testBit7]
@[simp] theorem testBit7_e (s : State) (r : Reg) : (s.testBit7 r).e = s.e := by simp [State.testBit7]
@[simp] theorem testBit7_h (s : State) (r : Reg) : (s.testBit7 r).h = s.h := by simp [State.testBit7]
@[simp] theorem testBit7_l (s : State) (r : Reg) : (s.testBit7 r).l = s.l := by simp [State.testBit7]
@[simp] theorem testBit7_pc (s : State) (r : Reg) : (s.testBit7 r).pc = s.pc := by simp [State.testBit7]
@[simp] theorem testBit7_sp (s : State) (r : Reg) : (s.testBit7 r).sp = s.sp := by simp [State.testBit7]
@[simp] theorem testBit7_cyc (s : State) (r : Reg) : (s.testBit7 r).cyc = s.cyc := by simp [State.testBit7]
@[simp] theorem testBit7_bootMapped (s : State) (r : Reg) : (s.testBit7 r).bootMapped = s.bootMapped := by simp [State.testBit7]
@[simp] theorem testBit7_bootRom (s : State) (r : Reg) : (s.testBit7 r).bootRom = s.bootRom := by simp [State.testBit7]
@[simp] theorem testBit7_cartRom (s : State) (r : Reg) : (s.testBit7 r).cartRom = s.cartRom := by simp [State.testBit7]
@[simp] theorem testBit7_hram (s : State) (r : Reg) : (s.testBit7 r).hram = s.hram := by simp [State.testBit7]
@[simp] theorem testBit7_wlog (s : State) (r : Reg) : (s.testBit7 r).wlog = s.wlog := by simp [State.testBit7]
@[simp] theorem testBit7_status (s : State) (r : Reg) : (s.testBit7 r).status = s.status := by simp [State.testBit7]

/-! `xorAcc` -/

@[simp] theorem xorAcc_b (s : State) (m : Config.XorANHC) : (s.xorAcc m).b = s.b := by cases m <;> simp [State.xorAcc, State.writeReg]
@[simp] theorem xorAcc_c (s : State) (m : Config.XorANHC) : (s.xorAcc m).c = s.c := by cases m <;> simp [State.xorAcc, State.writeReg]
@[simp] theorem xorAcc_d (s : State) (m : Config.XorANHC) : (s.xorAcc m).d = s.d := by cases m <;> simp [State.xorAcc, State.writeReg]
@[simp] theorem xorAcc_e (s : State) (m : Config.XorANHC) : (s.xorAcc m).e = s.e := by cases m <;> simp [State.xorAcc, State.writeReg]
@[simp] theorem xorAcc_h (s : State) (m : Config.XorANHC) : (s.xorAcc m).h = s.h := by cases m <;> simp [State.xorAcc, State.writeReg]
@[simp] theorem xorAcc_l (s : State) (m : Config.XorANHC) : (s.xorAcc m).l = s.l := by cases m <;> simp [State.xorAcc, State.writeReg]
@[simp] theorem xorAcc_pc (s : State) (m : Config.XorANHC) : (s.xorAcc m).pc = s.pc := by cases m <;> simp [State.xorAcc, State.writeReg]
@[simp] theorem xorAcc_sp (s : State) (m : Config.XorANHC) : (s.xorAcc m).sp = s.sp := by cases m <;> simp [State.xorAcc, State.writeReg]
@[simp] theorem xorAcc_cyc (s : State) (m : Config.XorANHC) : (s.xorAcc m).cyc = s.cyc := by cases m <;> simp [State.xorAcc, State.writeReg]
@[simp] theorem xorAcc_bootMapped (s : State) (m : Config.XorANHC) : (s.xorAcc m).bootMapped = s.bootMapped := by cases m <;> simp [State.xorAcc, State.writeReg]
@[simp] theorem xorAcc_bootRom (s : State) (m : Config.XorANHC) : (s.xorAcc m).bootRom = s.bootRom := by cases m <;> simp [State.xorAcc, State.writeReg]
@[simp] theorem xorAcc_cartRom (s : State) (m : Config.XorANHC) : (s.xorAcc m).cartRom = s.cartRom := by cases m <;> simp [State.xorAcc, State.writeReg]
@[simp] theorem xorAcc_hram (s : State) (m : Config.XorANHC) : (s.xorAcc m).hram = s.hram := by cases m <;> simp [State.xorAcc, State.writeReg]
@[simp] theorem xorAcc_wlog (s : State) (m : Config.XorANHC) : (s.xorAcc m).wlog = s.wlog := by cases m <;> simp [State.xorAcc, State.writeReg]
@[simp] theorem xorAcc_status (s : State) (m : Config.XorANHC) : (s.xorAcc m).status = s.status := by cases m <;> simp [State.xorAcc, State.writeReg]

/-! `unmapBootRom` -/

@[simp] theorem unmapBootRom_a (s : State) : (s.unmapBootRom).a = s.a := rfl
@[simp] theorem unmapBootRom_b (s : State) : (s.unmapBootRom).b = s.b := rfl
@[simp] theorem unmapBootRom_c (s : State) : (s.unmapBootRom).c = s.c := rfl
@[simp] theorem unmapBootRom_d (s : State) : (s.unmapBootRom).d = s.d := rfl
@[simp] theorem unmapBootRom_e (s : State) : (s.unmapBootRom).e = s.e := rfl
@[simp] theorem unmapBootRom_h (s : State) : (s.unmapBootRom).h = s.h := rfl
@[simp] theorem unmapBootRom_l (s : State) : (s.unmapBootRom).l = s.l := rfl
@[simp] theorem unmapBootRom_f (s : State) : (s.unmapBootRom).f = s.f := rfl
@[simp] theorem unmapBootRom_pc (s : State) : (s.unmapBootRom).pc = s.pc := rfl
@[simp] theorem unmapBootRom_sp (s : State) : (s.unmapBootRom).sp = s.sp := rfl
@[simp] theorem unmapBootRom_cyc (s : State) : (s.unmapBootRom).cyc = s.cyc := rfl
@[simp] theorem unmapBootRom_bootMapped (s : State) : (s.unmapBootRom).bootMapped = false := rfl
@[simp] theorem unmapBootRom_bootRom (s : State) : (s.unmapBootRom).bootRom = s.bootRom := rfl
@[simp] theorem unmapBootRom_cartRom (s : State) : (s.unmapBootRom).cartRom = s.cartRom := rfl
@[simp] theorem unmapBootRom_hram (s : State) : (s.unmapBootRom).hram = s.hram := rfl
@[simp] theorem unmapBootRom_wlog (s : State) : (s.unmapBootRom).wlog = s.wlog := rfl
@[simp] theorem unmapBootRom_status (s : State) : (s.unmapBootRom).status = s.status := rfl

/-! A write of one register, and what the accessors read. -/

@[simp] theorem writeReg_at_a (s : State) (v : Byte) : s.writeReg .a v = { s with a := v } := rfl
@[simp] theorem writeReg_at_b (s : State) (v : Byte) : s.writeReg .b v = { s with b := v } := rfl
@[simp] theorem writeReg_at_c (s : State) (v : Byte) : s.writeReg .c v = { s with c := v } := rfl
@[simp] theorem writeReg_at_d (s : State) (v : Byte) : s.writeReg .d v = { s with d := v } := rfl
@[simp] theorem writeReg_at_e (s : State) (v : Byte) : s.writeReg .e v = { s with e := v } := rfl
@[simp] theorem writeReg_at_h (s : State) (v : Byte) : s.writeReg .h v = { s with h := v } := rfl
@[simp] theorem writeReg_at_l (s : State) (v : Byte) : s.writeReg .l v = { s with l := v } := rfl
@[simp] theorem writeReg_at_f (s : State) (v : Byte) : s.writeReg .f v = { s with f := v &&& 0xF0 } := rfl
@[simp] theorem readReg_a (s : State) : s.readReg .a = s.a := rfl
@[simp] theorem readReg_b (s : State) : s.readReg .b = s.b := rfl
@[simp] theorem readReg_c (s : State) : s.readReg .c = s.c := rfl
@[simp] theorem readReg_d (s : State) : s.readReg .d = s.d := rfl
@[simp] theorem readReg_e (s : State) : s.readReg .e = s.e := rfl
@[simp] theorem readReg_h (s : State) : s.readReg .h = s.h := rfl
@[simp] theorem readReg_l (s : State) : s.readReg .l = s.l := rfl
@[simp] theorem readReg_f (s : State) : s.readReg .f = s.f := rfl
@[simp] theorem readPair_bc (s : State) : s.readPair .bc = s.b ++ s.c := rfl
@[simp] theorem writePair_at_bc (s : State) (w : Word) :
    s.writePair .bc w = { s with b := highByte w, c := lowByte w } := rfl
@[simp] theorem readPair_de (s : State) : s.readPair .de = s.d ++ s.e := rfl
@[simp] theorem writePair_at_de (s : State) (w : Word) :
    s.writePair .de w = { s with d := highByte w, e := lowByte w } := rfl
@[simp] theorem readPair_hl (s : State) : s.readPair .hl = s.h ++ s.l := rfl
@[simp] theorem writePair_at_hl (s : State) (w : Word) :
    s.writePair .hl w = { s with h := highByte w, l := lowByte w } := rfl
@[simp] theorem store_boot (s : State) : s.store .boot = s.bootRom := rfl
@[simp] theorem setStore_at_boot (s : State) (m : Memory) : s.setStore .boot m = { s with bootRom := m } := rfl
@[simp] theorem store_cart (s : State) : s.store .cart = s.cartRom := rfl
@[simp] theorem setStore_at_cart (s : State) (m : Memory) : s.setStore .cart m = { s with cartRom := m } := rfl
@[simp] theorem store_hram (s : State) : s.store .hram = s.hram := rfl
@[simp] theorem setStore_at_hram (s : State) (m : Memory) : s.setStore .hram m = { s with hram := m } := rfl

@[simp] theorem store_setStore_same (s : State) (st : Store) (m : Memory) : (s.setStore st m).store st = m := by
  cases st <;> rfl

theorem store_setStore_other (s : State) {st st' : Store} (m : Memory) (h : st' ≠ st) :
    (s.setStore st m).store st' = s.store st' := by
  cases st <;> cases st' <;> first | rfl | exact absurd rfl h

@[simp] theorem setStore_pc (s : State) (st : Store) (m : Memory) : (s.setStore st m).pc = s.pc := by cases st <;> rfl
@[simp] theorem setStore_status (s : State) (st : Store) (m : Memory) : (s.setStore st m).status = s.status := by
  cases st <;> rfl
@[simp] theorem setStore_bootMapped (s : State) (st : Store) (m : Memory) :
    (s.setStore st m).bootMapped = s.bootMapped := by cases st <;> rfl

/-! What reading a register gives after each update. -/

@[simp] theorem readReg_finish (s : State) (len : Word) (cost : CycleCount) (r : Reg) :
    (s.finish len cost).readReg r = s.readReg r := by cases r <;> rfl
@[simp] theorem readReg_jump (s : State) (target : Word) (cost : CycleCount) (r : Reg) :
    (s.jump target cost).readReg r = s.readReg r := by cases r <;> rfl
@[simp] theorem readReg_dropWord (s : State) (r : Reg) : s.dropWord.readReg r = s.readReg r := by cases r <;> rfl
@[simp] theorem readReg_writeByte (s : State) (a : Word) (v : Byte) (r : Reg) :
    (s.writeByte a v).readReg r = s.readReg r := by cases r <;> simp [State.readReg]
@[simp] theorem readReg_push (s : State) (w : Word) (r : Reg) : (s.push w).readReg r = s.readReg r := by
  cases r <;> simp [State.readReg]
theorem readReg_setFlag (s : State) (fl : Flag) (v : Bool) {r : Reg} (h : r ≠ .f) :
    (s.setFlag fl v).readReg r = s.readReg r := by cases r <;> first | rfl | exact absurd rfl h
theorem readReg_writeReg_same (s : State) {r : Reg} (v : Byte) (h : r ≠ .f) : (s.writeReg r v).readReg r = v := by
  cases r <;> first | rfl | exact absurd rfl h
theorem readReg_writeReg_other (s : State) {r r' : Reg} (v : Byte) (h : r' ≠ r) :
    (s.writeReg r v).readReg r' = s.readReg r' := by
  cases r <;> cases r' <;> first | rfl | exact absurd rfl h
theorem readReg_writePair_other (s : State) (p : Pair) (w : Word) {r : Reg} (hh : r ≠ p.high) (hl : r ≠ p.low) :
    (s.writePair p w).readReg r = s.readReg r := by
  rw [State.writePair, readReg_writeReg_other _ _ hl, readReg_writeReg_other _ _ hh]
theorem readReg_incReg_other (s : State) {r r' : Reg} (hf : r' ≠ .f) (h : r' ≠ r) :
    (s.incReg r).readReg r' = s.readReg r' := by
  simp only [State.incReg, readReg_setFlag _ _ _ hf, readReg_writeReg_other _ _ h]
theorem readReg_rotateReg_other (s : State) {r r' : Reg} (hf : r' ≠ .f) (h : r' ≠ r) :
    (s.rotateReg r).readReg r' = s.readReg r' := by
  simp only [State.rotateReg, readReg_setFlag _ _ _ hf, readReg_writeReg_other _ _ h]
theorem readReg_testBit7 (s : State) (r : Reg) {r' : Reg} (hf : r' ≠ .f) : (s.testBit7 r).readReg r' = s.readReg r' := by
  simp only [State.testBit7, readReg_setFlag _ _ _ hf]

/-- A pair is its two registers: what was written is read back (10_state.md R13). -/
@[simp] theorem readPair_writePair (s : State) (p : Pair) (w : Word) : (s.writePair p w).readPair p = w := by
  have h : highByte w ++ lowByte w = w := by
    apply BitVec.eq_of_toNat_eq
    simp only [highByte, lowByte, BitVec.toNat_append, BitVec.extractLsb'_toNat, Nat.shiftRight_eq_div_pow, Nat.shiftLeft_eq]
    rw [← Nat.shiftLeft_eq, ← Nat.shiftLeft_add_eq_or_of_lt (Nat.mod_lt _ (by decide)), Nat.shiftLeft_eq]
    have := w.isLt
    omega
  cases p <;> exact h

end Sys2Proof.Machine
end

