-- ==== Sys2Proof/Laws/Memory.lean ====
section
/-! SUPPORT. What the operations over one backing array do: read after write, and that each keeps the canonical form. -/

namespace Sys2Proof.Machine

theorem memGet_memInsert_same (m : Memory) (k : Nat) (v : Byte) : memGet (memInsert m k v) k = some v := by
  induction m with
  | nil => simp [memInsert, memGet]
  | cons c m ih =>
    obtain ⟨k', v'⟩ := c
    simp only [memInsert]
    split
    · simp [memGet]
    · split
      · simp [memGet]
      · next _ hne => simp [memGet, hne, ih]

theorem memGet_memInsert_other (m : Memory) {k k₂ : Nat} (v : Byte) (h : k₂ ≠ k) :
    memGet (memInsert m k v) k₂ = memGet m k₂ := by
  induction m with
  | nil => simp [memInsert, memGet, h]
  | cons c m ih =>
    obtain ⟨k', v'⟩ := c
    simp only [memInsert]
    split
    · simp [memGet, h]
    · split
      · next _ heq => subst heq; simp [memGet, h]
      · simp [memGet, ih]

theorem memGet_memErase_same (m : Memory) (k : Nat) : memGet (memErase m k) k = none := by
  induction m with
  | nil => rfl
  | cons c m ih =>
    obtain ⟨k', v'⟩ := c
    simp only [memErase]
    split
    · exact ih
    · next hne => simp [memGet, hne, ih]

theorem memGet_memErase_other (m : Memory) {k k₂ : Nat} (h : k₂ ≠ k) : memGet (memErase m k) k₂ = memGet m k₂ := by
  induction m with
  | nil => rfl
  | cons c m ih =>
    obtain ⟨k', v'⟩ := c
    simp only [memErase]
    split
    · next heq => subst heq; simp [memGet, h, ih]
    · simp [memGet, ih]

/-- A fill byte is what an unlisted address reads as. -/
theorem unlisted_of_fill {st : Store} {v : Byte} (h : st.fill = some v) (k : Nat) : st.unlisted k = v := by
  cases st <;> simp [Store.fill, Store.unlisted] at h ⊢
  exact h

/-- Reading the byte just stored gives it. -/
theorem memGet_memPut_same (st : Store) (m : Memory) (k : Nat) (v : Byte) :
    (memGet (memPut st m k v) k).getD (st.unlisted k) = v := by
  unfold memPut
  split
  · next h => simp [memGet_memErase_same, unlisted_of_fill h]
  · simp [memGet_memInsert_same]

/-- A store leaves every other address alone. -/
theorem memGet_memPut_other (st : Store) (m : Memory) {k k₂ : Nat} (v : Byte) (h : k₂ ≠ k) :
    memGet (memPut st m k v) k₂ = memGet m k₂ := by
  unfold memPut
  split
  · exact memGet_memErase_other m h
  · exact memGet_memInsert_other m v h

/-! ## The canonical form -/

theorem memWfFrom_mono (st : Store) {lo lo' : Nat} (hle : lo' ≤ lo) {m : Memory} (h : memWfFrom st lo m = true) :
    memWfFrom st lo' m = true := by
  cases m with
  | nil => rfl
  | cons c m =>
    obtain ⟨k, v⟩ := c
    simp only [memWfFrom, Bool.and_eq_true, decide_eq_true_eq] at h ⊢
    exact ⟨⟨⟨by omega, h.1.1.2⟩, h.1.2⟩, h.2⟩

theorem memWfFrom_insert (st : Store) {lo k : Nat} {v : Byte} {m : Memory} (hlo : lo ≤ k) (hhi : k ≤ st.last)
    (hv : st.fill ≠ some v) (h : memWfFrom st lo m = true) : memWfFrom st lo (memInsert m k v) = true := by
  induction m generalizing lo with
  | nil => simp [memInsert, memWfFrom, hlo, hhi, hv]
  | cons c m ih =>
    obtain ⟨k', v'⟩ := c
    simp only [memWfFrom, Bool.and_eq_true, decide_eq_true_eq] at h
    obtain ⟨⟨⟨h1, h2⟩, h3⟩, h4⟩ := h
    simp only [memInsert]
    split
    · next hlt =>
      simp only [memWfFrom, Bool.and_eq_true, decide_eq_true_eq]
      exact ⟨⟨⟨hlo, hhi⟩, hv⟩, ⟨⟨by omega, h2⟩, h3⟩, h4⟩
    · split
      · next _ heq =>
        subst heq
        simp only [memWfFrom, Bool.and_eq_true, decide_eq_true_eq]
        exact ⟨⟨⟨hlo, hhi⟩, hv⟩, h4⟩
      · next hnlt hne =>
        simp only [memWfFrom, Bool.and_eq_true, decide_eq_true_eq]
        exact ⟨⟨⟨h1, h2⟩, h3⟩, ih (by omega) h4⟩

theorem memWfFrom_erase (st : Store) {lo : Nat} (k : Nat) {m : Memory} (h : memWfFrom st lo m = true) :
    memWfFrom st lo (memErase m k) = true := by
  induction m generalizing lo with
  | nil => rfl
  | cons c m ih =>
    obtain ⟨k', v'⟩ := c
    simp only [memWfFrom, Bool.and_eq_true, decide_eq_true_eq] at h
    obtain ⟨⟨⟨h1, h2⟩, h3⟩, h4⟩ := h
    simp only [memErase]
    split
    · exact ih (memWfFrom_mono st (by omega) h4)
    · simp only [memWfFrom, Bool.and_eq_true, decide_eq_true_eq]
      exact ⟨⟨⟨h1, h2⟩, h3⟩, ih h4⟩

/-- A store at an address of the array keeps the canonical form. -/
theorem memPut_wf (st : Store) {k : Nat} {v : Byte} {m : Memory} (hlo : st.first ≤ k) (hhi : k ≤ st.last)
    (h : Memory.wf st m = true) : Memory.wf st (memPut st m k v) = true := by
  unfold memPut
  split
  · exact memWfFrom_erase st k h
  · next hv => exact memWfFrom_insert st hlo hhi hv h

/-- In canonical form a cell's address is one of the array. -/
theorem memWfFrom_mem (st : Store) {lo : Nat} {m : Memory} (h : memWfFrom st lo m = true) {c : Host.Cell} (hc : c ∈ m) :
    lo ≤ c.1 ∧ c.1 ≤ st.last ∧ st.fill ≠ some c.2 := by
  induction m generalizing lo with
  | nil => cases hc
  | cons d m ih =>
    obtain ⟨k, v⟩ := d
    simp only [memWfFrom, Bool.and_eq_true, decide_eq_true_eq] at h
    rcases List.mem_cons.mp hc with rfl | hc
    · exact ⟨h.1.1.1, h.1.1.2, h.1.2⟩
    · have := ih h.2 hc
      exact ⟨by omega, this.2⟩

/-- A whole image in canonical form. -/
theorem memOfImage_wf (st : Store) (k : Nat) (vs : List Byte) (h : k + vs.length ≤ st.last + 1) :
    memWfFrom st k (memOfImage st k vs) = true := by
  induction vs generalizing k with
  | nil => rfl
  | cons v vs ih =>
    simp only [List.length_cons] at h
    have ih' := ih (k + 1) (by omega)
    simp only [memOfImage]
    split
    · exact memWfFrom_mono st (by omega) ih'
    · next hv =>
      simp only [memWfFrom, Bool.and_eq_true, decide_eq_true_eq]
      exact ⟨⟨⟨by omega, by omega⟩, hv⟩, ih'⟩

/-- The byte of an image at an address before it. -/
theorem memGet_memOfImage_below (st : Store) {k j : Nat} (vs : List Byte) (h : j < k) :
    memGet (memOfImage st k vs) j = none := by
  induction vs generalizing k with
  | nil => rfl
  | cons v vs ih =>
    simp only [memOfImage]
    split
    · exact ih (by omega)
    · simp only [memGet, if_neg (show ¬(j = k) by omega)]
      exact ih (by omega)

/-- An image reads back byte for byte. -/
theorem memGet_memOfImage (st : Store) (k i : Nat) (vs : List Byte) (v : Byte) (h : vs[i]? = some v) :
    (memGet (memOfImage st k vs) (k + i)).getD (st.unlisted (k + i)) = v := by
  induction vs generalizing k i with
  | nil => simp at h
  | cons w vs ih =>
    cases i with
    | zero =>
      simp only [List.getElem?_cons_zero, Option.some.injEq] at h
      subst h
      simp only [memOfImage]
      split
      · next hf => simp [memGet_memOfImage_below st vs (show k < k + 1 by omega), unlisted_of_fill hf]
      · simp [memGet]
    | succ i =>
      simp only [List.getElem?_cons_succ] at h
      have := ih (k + 1) i h
      rw [show k + 1 + i = k + (i + 1) by omega] at this
      simp only [memOfImage]
      split
      · exact this
      · simp only [memGet, if_neg (show ¬(k + (i + 1) = k) by omega)]
        exact this

end Sys2Proof.Machine
end

