-- ==== Sys2Proof/Laws/Space.lean ====
section
/-! SUPPORT. What the operations over the address space can do, said once. -/

namespace Sys2Proof.Machine

/-- An address is in high RAM's region exactly when it is a high-RAM address. -/
theorem region_hram_iff (m : Bool) (a : Word) : region m a = .hram ↔ InHighRam a := by
  have := a.isLt
  unfold region InHighRam
  repeat' split
  all_goals simp_all
  all_goals omega

/-- An address is in one of the two windows' regions exactly when it is a window address. -/
theorem region_window_iff (m : Bool) (a : Word) : (region m a = .vram ∨ region m a = .io) ↔ InWindow a := by
  have := a.isLt
  unfold region InWindow
  repeat' split
  all_goals simp_all
  all_goals omega

/-- The array a region dispatches to holds the address. -/
theorem backing_bounds {m : Bool} {a : Word} {st : Store} (h : (region m a).backing = some st) :
    st.first ≤ a.toNat ∧ a.toNat ≤ st.last := by
  unfold region at h
  repeat' split at h
  all_goals simp only [Region.backing, Option.some.injEq, reduceCtorEq] at h
  all_goals (subst h; simp only [Store.first, Store.last]; omega)

/-- A read sees the boot flag and the three arrays, nothing else. -/
theorem readByte_congr {s t : State} (hm : t.bootMapped = s.bootMapped) (hb : t.bootRom = s.bootRom)
    (hc : t.cartRom = s.cartRom) (hh : t.hram = s.hram) (a : Word) : t.readByte a = s.readByte a := by
  have hs : ∀ st, t.store st = s.store st := by intro st; cases st <;> assumption
  simp only [State.readByte, State.regionOf, hm, hs]

/-- The pc, the cycle counter and the status play no part in a read. -/
@[simp] theorem readByte_finish (s : State) (len : Word) (cost : CycleCount) (a : Word) :
    (s.finish len cost).readByte a = s.readByte a := rfl
@[simp] theorem readByte_jump (s : State) (target : Word) (cost : CycleCount) (a : Word) :
    (s.jump target cost).readByte a = s.readByte a := rfl
@[simp] theorem readByte_dropWord (s : State) (a : Word) : s.dropWord.readByte a = s.readByte a := rfl
@[simp] theorem readByte_setFlag (s : State) (fl : Flag) (v : Bool) (a : Word) :
    (s.setFlag fl v).readByte a = s.readByte a := rfl
@[simp] theorem readByte_raiseDecodeFault (s : State) (u : Unassigned) (a : Word) :
    (s.raiseDecodeFault u).readByte a = s.readByte a := rfl
@[simp] theorem readByte_writeReg (s : State) (r : Reg) (v : Byte) (a : Word) :
    (s.writeReg r v).readByte a = s.readByte a := readByte_congr (by simp) (by simp) (by simp) (by simp) a
@[simp] theorem readByte_writePair (s : State) (p : Pair) (w : Word) (a : Word) :
    (s.writePair p w).readByte a = s.readByte a := readByte_congr (by simp) (by simp) (by simp) (by simp) a

/-- Everything a byte write can do: store in high RAM, trace in a window, or nothing. -/
theorem writeByte_cases (s : State) (a : Word) (v : Byte) :
    (InHighRam a ∧ s.writeByte a v = { s with hram := memPut .hram s.hram a.toNat v }) ∨
    (InWindow a ∧ s.writeByte a v = { s with wlog := s.wlog ++ [(a, v)] }) ∨
    (¬InHighRam a ∧ ¬InWindow a ∧ s.writeByte a v = s) := by
  rw [← region_hram_iff s.bootMapped a, ← region_window_iff s.bootMapped a]
  unfold State.writeByte State.regionOf
  cases region s.bootMapped a <;> simp [State.trace, Config.modelWlog]

theorem not_window_of_highRam {a : Word} (h : InHighRam a) : ¬InWindow a := by
  simp only [InHighRam, InWindow] at *
  omega

/-- A byte write in high RAM. -/
theorem writeByte_highRam (s : State) {a : Word} (v : Byte) (h : InHighRam a) :
    s.writeByte a v = { s with hram := memPut .hram s.hram a.toNat v } := by
  rcases writeByte_cases s a v with ⟨_, e⟩ | ⟨hw, _⟩ | ⟨hn, _⟩
  · exact e
  · exact absurd hw (not_window_of_highRam h)
  · exact absurd h hn

/-- A byte write in one of the windows. -/
theorem writeByte_window (s : State) {a : Word} (v : Byte) (h : InWindow a) :
    s.writeByte a v = { s with wlog := s.wlog ++ [(a, v)] } := by
  rcases writeByte_cases s a v with ⟨hh, _⟩ | ⟨_, e⟩ | ⟨_, hn, _⟩
  · exact absurd h (not_window_of_highRam hh)
  · exact e
  · exact absurd h hn

/-- A byte write that is dropped. -/
theorem writeByte_dropped (s : State) {a : Word} (v : Byte) (hh : ¬InHighRam a) (hw : ¬InWindow a) :
    s.writeByte a v = s := by
  rcases writeByte_cases s a v with ⟨h, _⟩ | ⟨h, _⟩ | ⟨_, _, e⟩
  · exact absurd h hh
  · exact absurd h hw
  · exact e

/-- A read in high RAM. -/
theorem readByte_highRam (s : State) {a : Word} (h : InHighRam a) :
    s.readByte a = (memGet s.hram a.toNat).getD (Store.hram.unlisted a.toNat) := by
  have hr := (region_hram_iff s.bootMapped a).mpr h
  simp only [State.readByte, State.regionOf, hr, Region.backing, store_hram]

/-- A read outside high RAM does not see high RAM. -/
theorem readByte_outside (s : State) (m : Memory) {a : Word} (h : ¬InHighRam a) :
    ({ s with hram := m } : State).readByte a = s.readByte a := by
  rw [← region_hram_iff s.bootMapped a] at h
  unfold State.readByte State.regionOf
  revert h
  cases region s.bootMapped a <;> intro h <;> first | rfl | exact absurd rfl h

/-- Everything a step can do: run the fetched instruction, take the decode fault, or, in a faulted machine, nothing. -/
theorem step_cases (s : State) :
    (∃ i, s.status = .running ∧ s.fetchDecode = .ok i ∧ step s = exec i s) ∨
    (∃ u, s.status = .running ∧ s.fetchDecode = .error u ∧ step s = .next (s.raiseDecodeFault u)) ∨
    (∃ r, s.status = .faulted r ∧ step s = .fault (.stopped r)) := by
  unfold step
  cases hs : s.status with
  | faulted r => exact .inr (.inr ⟨r, rfl, rfl⟩)
  | running =>
    cases hd : s.fetchDecode with
    | ok i => exact .inl ⟨i, rfl, rfl, rfl⟩
    | error u => exact .inr (.inl ⟨u, rfl, rfl, rfl⟩)

/-- A step at an assigned byte of the Normal table. -/
theorem step_normal {s : State} {b0 : Byte} {r : Row} (hs : s.status = .running) (hb : s.readByte s.pc = b0)
    (hx : b0 ≠ extensionByte) (hr : lookupByte b0 normalTable = some r) :
    step s = exec (r.build (s.readByte (s.pc + 1)) (s.readByte (s.pc + 2))) s := by
  simp only [step, hs, State.fetchDecode, decodeBytes, decodeWith, opmap, hb, if_neg hx, hr]

/-- A step at 0xCB and an assigned byte of the Extended table. -/
theorem step_extended {s : State} {b1 : Byte} {i : Instr} (hs : s.status = .running)
    (hb : s.readByte s.pc = extensionByte) (h1 : s.readByte (s.pc + 1) = b1)
    (hr : lookupByte b1 extendedTable = some i) : step s = exec i s := by
  simp only [step, hs, State.fetchDecode, decodeBytes, decodeWith, opmap, hb, h1, hr, if_true]

end Sys2Proof.Machine
end

