-- ==== Sys2Proof/Laws/Fetch.lean ====
section
/-! SUPPORT. What placing an instruction at the next fetch does: the very next step runs exactly that instruction. -/

namespace Sys2Proof.Machine

/-- Loading a byte leaves the boot flag, so the regions, as they were. -/
@[simp] theorem loadByte_bootMapped (s : State) (a : Word) (v : Byte) : (s.loadByte a v).bootMapped = s.bootMapped := by
  unfold State.loadByte
  split
  · next st _ => cases st <;> rfl
  · rfl

/-- Loading a byte leaves the pc as it was. -/
@[simp] theorem loadByte_pc (s : State) (a : Word) (v : Byte) : (s.loadByte a v).pc = s.pc := by
  unfold State.loadByte
  split
  · next st _ => cases st <;> rfl
  · rfl

/-- Loading a byte leaves the status as it was. -/
@[simp] theorem loadByte_status (s : State) (a : Word) (v : Byte) : (s.loadByte a v).status = s.status := by
  unfold State.loadByte
  split
  · next st _ => cases st <;> rfl
  · rfl

/-- A byte loaded at a backed address is read there. -/
theorem readByte_loadByte_same {s : State} {a : Word} (v : Byte) (h : s.backed a = true) :
    (s.loadByte a v).readByte a = v := by
  obtain ⟨st, hst⟩ := Option.isSome_iff_exists.mp h
  have he : s.loadByte a v = s.setStore st (memPut st (s.store st) a.toNat v) := by
    simp only [State.loadByte, hst]
  have hr : (region (s.loadByte a v).bootMapped a).backing = some st := by rw [loadByte_bootMapped]; exact hst
  simp only [State.readByte, State.regionOf, hr]
  rw [he, store_setStore_same, memGet_memPut_same]

/-- A byte loaded anywhere leaves what every other address reads as. -/
theorem readByte_loadByte_other (s : State) {a a' : Word} (v : Byte) (h : a' ≠ a) :
    (s.loadByte a v).readByte a' = s.readByte a' := by
  have hn : a'.toNat ≠ a.toNat := fun e => h (BitVec.eq_of_toNat_eq e)
  simp only [State.readByte, State.regionOf, loadByte_bootMapped]
  split
  · next st' _ =>
    unfold State.loadByte
    split
    · next st _ =>
      by_cases hs : st' = st
      · subst hs; rw [store_setStore_same, memGet_memPut_other _ _ _ hn]
      · rw [store_setStore_other _ _ hs]
    · rfl
  · rfl

/-- The place of the next fetch is backed at all its three addresses. -/
theorem fetchHome_backed (s : State) :
    s.backed s.fetchHome = true ∧ s.backed (s.fetchHome + 1) = true ∧ s.backed (s.fetchHome + 2) = true := by
  unfold State.fetchHome
  split
  · next h => simpa [and_assoc] using h
  · cases hb : s.bootMapped <;> simp [State.backed, State.regionOf, region, hb, loadHome, Region.backing]

/-- Loading a byte keeps every array in its canonical form. -/
theorem loadByte_canonical {s : State} (a : Word) (v : Byte) (h : MemoryCanonical s) : MemoryCanonical (s.loadByte a v) := by
  unfold State.loadByte
  split
  · next st hst =>
    obtain ⟨hlo, hhi⟩ := backing_bounds hst
    obtain ⟨hb, hc, hh⟩ := h
    cases st
    · exact ⟨memPut_wf .boot hlo hhi hb, hc, hh⟩
    · exact ⟨hb, memPut_wf .cart hlo hhi hc, hh⟩
    · exact ⟨hb, hc, memPut_wf .hram hlo hhi hh⟩
  · exact h

/-- A load does not change which addresses are backed. -/
@[simp] theorem loadByte_backed (s : State) (a a' : Word) (v : Byte) : (s.loadByte a v).backed a' = s.backed a' := by
  simp only [State.backed, State.regionOf, loadByte_bootMapped]

/-- Three bytes loaded at three backed addresses in a row read back. -/
theorem readByte_three_loads {t : State} {p : Word} (x y z : Byte) (h0 : t.backed p = true)
    (h1 : t.backed (p + 1) = true) (h2 : t.backed (p + 2) = true) :
    let u := ((t.loadByte p x).loadByte (p + 1) y).loadByte (p + 2) z
    u.readByte p = x ∧ u.readByte (p + 1) = y ∧ u.readByte (p + 2) = z := by
  have n01 : p ≠ p + 1 := fun e => by bv_omega
  have n02 : p ≠ p + 2 := fun e => by bv_omega
  have n12 : p + 1 ≠ p + 2 := fun e => by bv_omega
  refine ⟨?_, ?_, ?_⟩
  · rw [readByte_loadByte_other _ z n02, readByte_loadByte_other _ y n01, readByte_loadByte_same x h0]
  · rw [readByte_loadByte_other _ z n12, readByte_loadByte_same y (by simpa using h1)]
  · rw [readByte_loadByte_same z (by simpa using h2)]

/-- The three bytes a machine fetches next are the three placed there. -/
theorem fetchDecode_placeAtFetch (s : State) (bs : List Byte) :
    (s.placeAtFetch bs).fetchDecode = decodeBytes (bs.getD 0 0) (bs.getD 1 0) (bs.getD 2 0) := by
  obtain ⟨h0, h1, h2⟩ := fetchHome_backed s
  obtain ⟨e0, e1, e2⟩ :=
    readByte_three_loads (t := { s with pc := s.fetchHome, status := .running }) (bs.getD 0 0) (bs.getD 1 0) (bs.getD 2 0)
      h0 h1 h2
  have hp : (s.placeAtFetch bs).pc = s.fetchHome := by simp [State.placeAtFetch]
  unfold State.fetchDecode
  rw [hp]
  exact congr (congr (congrArg decodeBytes e0) e1) e2

/-- A machine with an instruction's bytes placed at its next fetch runs that instruction, whatever its state was. -/
theorem step_placeAtFetch (s : State) {bs : List Byte} {i : Instr}
    (h : decodeBytes (bs.getD 0 0) (bs.getD 1 0) (bs.getD 2 0) = .ok i) :
    step (s.placeAtFetch bs) = exec i (s.placeAtFetch bs) := by
  have hs : (s.placeAtFetch bs).status = .running := by simp [State.placeAtFetch]
  simp only [step, hs, fetchDecode_placeAtFetch, h]

/-- A list of three bytes that decodes to `i` is what `decodeBytes` reads as `i`. -/
theorem decodeBytes_of_decode {b0 b1 b2 : Byte} {i : Instr} {rest : List Byte}
    (h : decode [b0, b1, b2] = .ok (i, rest)) : decodeBytes b0 b1 b2 = .ok i := by
  simp only [decode, List.headD, List.tail, reduceCtorEq, and_false, if_false] at h
  split at h
  · cases h
  · next j hj =>
    split at h
    · simp only [Except.ok.injEq, Prod.mk.injEq] at h
      rw [hj, h.1]
    · cases h

/-- Where the decoder gives `i` for a table word, a step of the machine with that word placed runs `i`. -/
theorem step_withFetchWord (s : State) {nbits w : Nat} {i : Instr} (h : decodeTableWord nbits w = some i) :
    step (s.withFetchWord nbits w) = exec i (s.withFetchWord nbits w) := by
  have ⟨b0, b1, b2, hb⟩ : ∃ b0 b1 b2, tableBytes nbits w = [b0, b1, b2] := by
    simp only [tableBytes]
    split <;> exact ⟨_, _, _, rfl⟩
  unfold State.withFetchWord
  refine step_placeAtFetch s ?_
  rw [hb]
  unfold decodeTableWord at h
  rw [hb] at h
  split at h
  · next j rest hd =>
    obtain rfl : j = i := Option.some.inj h
    exact decodeBytes_of_decode hd
  · cases h

end Sys2Proof.Machine
end

