-- ==== Sys2Proof/Laws/Flags.lean ====
section
/-! SUPPORT. What a write of one flag does to the four flags and to the rest of F. -/

namespace Sys2Proof.Machine

/-- A flag's value is F's alone. -/
theorem flag_congr {s t : State} (h : t.f = s.f) (fl : Flag) : t.flag fl = s.flag fl := by
  simp only [State.flag, h]

theorem flag_setFlag_same (s : State) (fl : Flag) (v : Bool) : (s.setFlag fl v).flag fl = v := by
  have h : ∀ (f : Byte) (v : Bool), (if v then f ||| fl.mask else f &&& ~~~fl.mask).getLsbD fl.bit = v := by
    cases fl <;> decide
  exact h s.f v

theorem flag_setFlag_other (s : State) {fl g : Flag} (v : Bool) (hne : g ≠ fl) : (s.setFlag fl v).flag g = s.flag g := by
  have h : ∀ (f : Byte) (v : Bool),
      (if v then f ||| fl.mask else f &&& ~~~fl.mask).getLsbD g.bit = f.getLsbD g.bit := by
    cases fl <;> cases g <;> first | exact absurd rfl hne | decide
  exact h s.f v

/-- Bits 3 to 0 of F are no flag's. -/
theorem lowBits_setFlag (s : State) (fl : Flag) (v : Bool) : (s.setFlag fl v).f &&& 0x0F = s.f &&& 0x0F := by
  have h : ∀ (f : Byte) (v : Bool), (if v then f ||| fl.mask else f &&& ~~~fl.mask) &&& 0x0F = f &&& 0x0F := by
    cases fl <;> decide
  exact h s.f v

theorem f_writeReg_operand (s : State) {r : Reg} (v : Byte) (h : r ≠ .f) : (s.writeReg r v).f = s.f := by
  cases r <;> first | rfl | exact absurd rfl h

end Sys2Proof.Machine
end

