-- ==== Sys2Proof/Laws/PerInstr.lean ====
section
/-! SUPPORT. Per-instruction facts about the syntax. -/

namespace Sys2Proof.Laws.EncodedLength

/-- The encoding has the instruction's length, 1 to 3 bytes (30_encoding.md R80, R81), and a first byte that is the
extension byte exactly for a two-byte instruction without an operand byte (format X2). -/
def Statement (i : Instr) : Prop :=
  (encode i).length = i.length ∧ 1 ≤ i.length ∧ i.length ≤ 3 ∧
    ((encode i).head? = some extensionByte ↔ ∃ b, (b, i) ∈ extendedTable)

theorem nop : Statement .nop := by
  simp [Statement, encode, Instr.length, extensionByte, extendedTable]
theorem ldBCd16 (imm : Word) : Statement (.ldBCd16 imm) := by
  simp [Statement, encode, Instr.length, extensionByte, extendedTable]
theorem ldDEd16 (imm : Word) : Statement (.ldDEd16 imm) := by
  simp [Statement, encode, Instr.length, extensionByte, extendedTable]
theorem ldHLd16 (imm : Word) : Statement (.ldHLd16 imm) := by
  simp [Statement, encode, Instr.length, extensionByte, extendedTable]
theorem ldSPd16 (imm : Word) : Statement (.ldSPd16 imm) := by
  simp [Statement, encode, Instr.length, extensionByte, extendedTable]
theorem ldBd8 (imm : Byte) : Statement (.ldBd8 imm) := by
  simp [Statement, encode, Instr.length, extensionByte, extendedTable]
theorem ldCd8 (imm : Byte) : Statement (.ldCd8 imm) := by
  simp [Statement, encode, Instr.length, extensionByte, extendedTable]
theorem ldDd8 (imm : Byte) : Statement (.ldDd8 imm) := by
  simp [Statement, encode, Instr.length, extensionByte, extendedTable]
theorem ldEd8 (imm : Byte) : Statement (.ldEd8 imm) := by
  simp [Statement, encode, Instr.length, extensionByte, extendedTable]
theorem ldHd8 (imm : Byte) : Statement (.ldHd8 imm) := by
  simp [Statement, encode, Instr.length, extensionByte, extendedTable]
theorem ldLd8 (imm : Byte) : Statement (.ldLd8 imm) := by
  simp [Statement, encode, Instr.length, extensionByte, extendedTable]
theorem ldAd8 (imm : Byte) : Statement (.ldAd8 imm) := by
  simp [Statement, encode, Instr.length, extensionByte, extendedTable]
theorem ldIndBCA : Statement .ldIndBCA := by
  simp [Statement, encode, Instr.length, extensionByte, extendedTable]
theorem ldIndDEA : Statement .ldIndDEA := by
  simp [Statement, encode, Instr.length, extensionByte, extendedTable]
theorem ldIndHLA : Statement .ldIndHLA := by
  simp [Statement, encode, Instr.length, extensionByte, extendedTable]
theorem ldIndHLDecA : Statement .ldIndHLDecA := by
  simp [Statement, encode, Instr.length, extensionByte, extendedTable]
theorem ldAIndBC : Statement .ldAIndBC := by
  simp [Statement, encode, Instr.length, extensionByte, extendedTable]
theorem ldAIndDE : Statement .ldAIndDE := by
  simp [Statement, encode, Instr.length, extensionByte, extendedTable]
theorem ldAIndHL : Statement .ldAIndHL := by
  simp [Statement, encode, Instr.length, extensionByte, extendedTable]
theorem ldHighCA : Statement .ldHighCA := by
  simp [Statement, encode, Instr.length, extensionByte, extendedTable]
theorem ldhA8A (off : Byte) : Statement (.ldhA8A off) := by
  simp [Statement, encode, Instr.length, extensionByte, extendedTable]
theorem xorA : Statement .xorA := by
  simp [Statement, encode, Instr.length, extensionByte, extendedTable]
theorem incB : Statement .incB := by
  simp [Statement, encode, Instr.length, extensionByte, extendedTable]
theorem incC : Statement .incC := by
  simp [Statement, encode, Instr.length, extensionByte, extendedTable]
theorem incD : Statement .incD := by
  simp [Statement, encode, Instr.length, extensionByte, extendedTable]
theorem incE : Statement .incE := by
  simp [Statement, encode, Instr.length, extensionByte, extendedTable]
theorem incH : Statement .incH := by
  simp [Statement, encode, Instr.length, extensionByte, extendedTable]
theorem incL : Statement .incL := by
  simp [Statement, encode, Instr.length, extensionByte, extendedTable]
theorem incA : Statement .incA := by
  simp [Statement, encode, Instr.length, extensionByte, extendedTable]
theorem rla : Statement .rla := by
  simp [Statement, encode, Instr.length, extensionByte, extendedTable]
theorem rlB : Statement .rlB := by
  simp [Statement, encode, Instr.length, extensionByte, extendedTable]
theorem rlC : Statement .rlC := by
  simp [Statement, encode, Instr.length, extensionByte, extendedTable]
theorem rlD : Statement .rlD := by
  simp [Statement, encode, Instr.length, extensionByte, extendedTable]
theorem rlE : Statement .rlE := by
  simp [Statement, encode, Instr.length, extensionByte, extendedTable]
theorem rlH : Statement .rlH := by
  simp [Statement, encode, Instr.length, extensionByte, extendedTable]
theorem rlL : Statement .rlL := by
  simp [Statement, encode, Instr.length, extensionByte, extendedTable]
theorem rlA : Statement .rlA := by
  simp [Statement, encode, Instr.length, extensionByte, extendedTable]
theorem bit7H : Statement .bit7H := by
  simp [Statement, encode, Instr.length, extensionByte, extendedTable]
theorem jrNZ (off : Byte) : Statement (.jrNZ off) := by
  simp [Statement, encode, Instr.length, extensionByte, extendedTable]
theorem pushBC : Statement .pushBC := by
  simp [Statement, encode, Instr.length, extensionByte, extendedTable]
theorem pushDE : Statement .pushDE := by
  simp [Statement, encode, Instr.length, extensionByte, extendedTable]
theorem pushHL : Statement .pushHL := by
  simp [Statement, encode, Instr.length, extensionByte, extendedTable]
theorem popBC : Statement .popBC := by
  simp [Statement, encode, Instr.length, extensionByte, extendedTable]
theorem popDE : Statement .popDE := by
  simp [Statement, encode, Instr.length, extensionByte, extendedTable]
theorem popHL : Statement .popHL := by
  simp [Statement, encode, Instr.length, extensionByte, extendedTable]
theorem callA16 (target : Word) : Statement (.callA16 target) := by
  simp [Statement, encode, Instr.length, extensionByte, extendedTable]

end Sys2Proof.Laws.EncodedLength
end

