-- ==== Sys2Proof/Tests/Slice0.lean ====
section
/-! SUPPORT. Tests on fixed values, each with its source in spec/, and a witness for the hypotheses of every statement that has
some. The numbers are those of 95_test_vectors.md (E, L, M and V ids) or written out from the Encoding lines of the rules. -/

namespace Sys2Proof.Tests

open Sys2Proof Sys2Proof.Machine Sys2Proof.Claims

/-- The bytes `bs` loaded from the address `a` on. -/
def put (s : State) (a : Word) : List Byte → State
  | [] => s
  | v :: vs => put (s.loadByte a v) (a + 1) vs

/-- The machine after reset with `bs` at its pc, address 0x0000 in the boot ROM. -/
def code (bs : List Byte) : State := put State.reset 0x0000 bs

/-- One step answers a next state of which `p` holds. -/
def after (s : State) (p : State → Bool) : Bool :=
  match step s with
  | .next t => p t
  | .fault _ => false
  | .refused _ => false

/-- One step answers a next state that faulted on this table and byte, with nothing but the status changed. -/
def faults (s : State) (tb : DecodeTable) (b : Byte) : Bool :=
  after s fun t => decide (t = { s with status := .faulted { table := tb, byte := b, snapshot := s.snapshot } })

/-! ## WellFormed: an ill-formed map for each check is refused -/

/-- R94: the map of R86 passes. -/
theorem test_wf_opmap : opmap.wellFormed = true := by decide

/-- R94: two rows of the Normal table with one byte. -/
theorem test_wf_normal_overlap : (Opmap.mk [(0x00, .bare .nop), (0x00, .bare .rla)] []).wellFormed = false := by decide

/-- R94: two rows of the Extended table with one byte. -/
theorem test_wf_extended_overlap : (Opmap.mk [] [(0x10, .rlB), (0x10, .rlC)]).wellFormed = false := by decide

/-- R85: the extension byte as a row. -/
theorem test_wf_extension_row : (Opmap.mk [(0xCB, .bare .nop)] []).wellFormed = false := by decide

/-- R91: 0xFF as a row. -/
theorem test_wf_ff_row : (Opmap.mk [(0xFF, .bare .nop)] []).wellFormed = false := by decide

/-! ## Decoding: a word of every constructor, from the Encoding line of its rule -/

theorem test_decode_nop : decode [0x00] = .ok (.nop, []) := by decide

theorem test_decode_ldBCd16 : decode [0x01, 0x34, 0x12] = .ok (.ldBCd16 0x1234, []) := by decide

theorem test_decode_ldDEd16 : decode [0x11, 0xFF, 0x00] = .ok (.ldDEd16 0x00FF, []) := by decide

theorem test_decode_ldHLd16 : decode [0x21, 0xFF, 0x9F] = .ok (.ldHLd16 0x9FFF, []) := by decide

theorem test_decode_ldSPd16 : decode [0x31, 0xFE, 0xFF] = .ok (.ldSPd16 0xFFFE, []) := by decide

theorem test_decode_ldBd8 : decode [0x06, 0x80] = .ok (.ldBd8 0x80, []) := by decide

theorem test_decode_ldCd8 : decode [0x0E, 0x81] = .ok (.ldCd8 0x81, []) := by decide

theorem test_decode_ldDd8 : decode [0x16, 0x82] = .ok (.ldDd8 0x82, []) := by decide

theorem test_decode_ldEd8 : decode [0x1E, 0x83] = .ok (.ldEd8 0x83, []) := by decide

theorem test_decode_ldHd8 : decode [0x26, 0x84] = .ok (.ldHd8 0x84, []) := by decide

theorem test_decode_ldLd8 : decode [0x2E, 0x85] = .ok (.ldLd8 0x85, []) := by decide

theorem test_decode_ldAd8 : decode [0x3E, 0x86] = .ok (.ldAd8 0x86, []) := by decide

theorem test_decode_ldIndBCA : decode [0x02] = .ok (.ldIndBCA, []) := by decide

theorem test_decode_ldIndDEA : decode [0x12] = .ok (.ldIndDEA, []) := by decide

theorem test_decode_ldIndHLA : decode [0x77] = .ok (.ldIndHLA, []) := by decide

theorem test_decode_ldIndHLDecA : decode [0x32] = .ok (.ldIndHLDecA, []) := by decide

theorem test_decode_ldAIndBC : decode [0x0A] = .ok (.ldAIndBC, []) := by decide

theorem test_decode_ldAIndDE : decode [0x1A] = .ok (.ldAIndDE, []) := by decide

theorem test_decode_ldAIndHL : decode [0x7E] = .ok (.ldAIndHL, []) := by decide

theorem test_decode_ldHighCA : decode [0xE2] = .ok (.ldHighCA, []) := by decide

theorem test_decode_ldhA8A : decode [0xE0, 0xFE] = .ok (.ldhA8A 0xFE, []) := by decide

theorem test_decode_xorA : decode [0xAF] = .ok (.xorA, []) := by decide

theorem test_decode_incB : decode [0x04] = .ok (.incB, []) := by decide

theorem test_decode_incC : decode [0x0C] = .ok (.incC, []) := by decide

theorem test_decode_incD : decode [0x14] = .ok (.incD, []) := by decide

theorem test_decode_incE : decode [0x1C] = .ok (.incE, []) := by decide

theorem test_decode_incH : decode [0x24] = .ok (.incH, []) := by decide

theorem test_decode_incL : decode [0x2C] = .ok (.incL, []) := by decide

theorem test_decode_incA : decode [0x3C] = .ok (.incA, []) := by decide

theorem test_decode_rla : decode [0x17] = .ok (.rla, []) := by decide

theorem test_decode_rlB : decode [0xCB, 0x10] = .ok (.rlB, []) := by decide

theorem test_decode_rlC : decode [0xCB, 0x11] = .ok (.rlC, []) := by decide

theorem test_decode_rlD : decode [0xCB, 0x12] = .ok (.rlD, []) := by decide

theorem test_decode_rlE : decode [0xCB, 0x13] = .ok (.rlE, []) := by decide

theorem test_decode_rlH : decode [0xCB, 0x14] = .ok (.rlH, []) := by decide

theorem test_decode_rlL : decode [0xCB, 0x15] = .ok (.rlL, []) := by decide

theorem test_decode_rlA : decode [0xCB, 0x17] = .ok (.rlA, []) := by decide

theorem test_decode_bit7H : decode [0xCB, 0x7C] = .ok (.bit7H, []) := by decide

theorem test_decode_jrNZ : decode [0x20, 0xFB] = .ok (.jrNZ 0xFB, []) := by decide

theorem test_decode_pushBC : decode [0xC5] = .ok (.pushBC, []) := by decide

theorem test_decode_pushDE : decode [0xD5] = .ok (.pushDE, []) := by decide

theorem test_decode_pushHL : decode [0xE5] = .ok (.pushHL, []) := by decide

theorem test_decode_popBC : decode [0xC1] = .ok (.popBC, []) := by decide

theorem test_decode_popDE : decode [0xD1] = .ok (.popDE, []) := by decide

theorem test_decode_popHL : decode [0xE1] = .ok (.popHL, []) := by decide

theorem test_decode_callA16 : decode [0xCD, 0x34, 0x12] = .ok (.callA16 0x1234, []) := by decide

/-! ## Decoding: what is refused, by name -/

/-- R91, V500. -/
theorem test_refuse_FF : decode [0xFF, 0x00, 0x00] = .error (.unassigned { table := .normal, byte := 0xFF }) := by decide

/-- V501. -/
theorem test_refuse_C3 : decode [0xC3, 0x00, 0x01] = .error (.unassigned { table := .normal, byte := 0xC3 }) := by decide

/-- V504: assigned in the Extended table only. -/
theorem test_refuse_10 : decode [0x10, 0x00, 0x00] = .error (.unassigned { table := .normal, byte := 0x10 }) := by decide

/-- V506. -/
theorem test_refuse_CB16 : decode [0xCB, 0x16, 0x00] = .error (.unassigned { table := .extended, byte := 0x16 }) := by decide

/-- V508: the prefix does not nest. -/
theorem test_refuse_CBCB : decode [0xCB, 0xCB, 0x00] = .error (.unassigned { table := .extended, byte := 0xCB }) := by decide

/-- A list that ends inside the instruction. -/
theorem test_refuse_short : decode [] = .error .truncated ∧ decode [0xCB] = .error .truncated ∧ decode [0x06] = .error .truncated ∧
    decode [0xCD, 0x34] = .error .truncated := by decide

/-- E6. -/
theorem test_decode_rest : decode [0x31, 0xFE, 0xFF, 0x00] = .ok (.ldSPd16 0xFFFE, [0x00]) := by decide

/-- Words of the opcode table, both byte numberings of R94. -/
theorem test_table_words : decodeTableWord 8 0x00 = some .nop ∧ decodeTableWord 8 0x01 = some (.ldBCd16 0) ∧
    decodeTableWord 16 0x8006 = some (.ldBd8 0x80) ∧ decodeTableWord 24 0x1234CD = some (.callA16 0x1234) ∧
    decodeTableWord 16 0xCB10 = some .rlB ∧ decodeTableWord 16 0x7CCB = some .bit7H ∧ decodeTableWord 8 0xFF = none := by decide

/-- The first step after reset runs the word placed. -/
theorem test_withFetchWord : step (State.reset.withFetchWord 16 0xCB7C) = exec .bit7H (State.reset.withFetchWord 16 0xCB7C) := step_withFetchWord _ (by decide)

/-- R81, R190. -/
theorem test_encode_length : (encode (.callA16 0x1234)).length = 3 ∧ (encode .bit7H).length = 2 ∧ encode (.jrNZ 0xFB) = [0x20, 0xFB] := by decide

/-! ## The address/word library -/

/-- L1 to L4. -/
theorem test_addSignedOffset : addSignedOffset 0x0100 0x7F = 0x017F ∧ addSignedOffset 0x0100 0x80 = 0x0080 ∧ addSignedOffset 0x0000 0xFF = 0xFFFF ∧
    addSignedOffset 0xFFFF 0x01 = 0x0000 := by decide

/-- L7 to L8a. -/
theorem test_addUnsignedOffset : addUnsignedOffset 0xFF00 0x80 = 0xFF80 ∧ addUnsignedOffset 0xFF00 0xFF = 0xFFFF ∧ addUnsignedOffset 0xFF81 0xFF = 0x0080 := by decide

/-- L9, L10. -/
theorem test_words : wordFromBytes 0x34 0x12 = 0x1234 ∧ wordToBytes 0x1234 = (0x12, 0x34) := by decide

/-! ## The address space -/

/-- The state of the M vectors. -/
def space (mapped : Bool) : State :=
  { State.reset with
    bootMapped := mapped
    bootRom := [(0x0000, 0xB0), (0x00FF, 0xBF)]
    cartRom := [(0x0000, 0xC0), (0x00FF, 0xC1), (0x0100, 0xC2), (0x3FFF, 0xC3), (0x4000, 0xC4), (0x7FFF, 0xC5)]
    hram := [(0xFF80, 0x11), (0xFFFE, 0x22)] }

/-- M1 to M3. -/
theorem test_read_mapped : (space true).readByte 0x0000 = 0xB0 ∧ (space true).readByte 0x00FF = 0xBF ∧ (space true).readByte 0x0100 = 0xC2 := by decide

/-- M4. -/
theorem test_read_unmapped_boot : (space false).readByte 0x0000 = 0xC0 ∧ (space false).readByte 0x00FF = 0xC1 := by decide

/-- M5. -/
theorem test_read_banks : (space true).readByte 0x3FFF = 0xC3 ∧ (space true).readByte 0x4000 = 0xC4 ∧ (space true).readByte 0x7FFF = 0xC5 := by decide

/-- M6 to M8, M10. -/
theorem test_read_zero : (space true).readByte 0x8000 = 0 ∧ (space true).readByte 0x9FFF = 0 ∧ (space true).readByte 0xA000 = 0 ∧
    (space true).readByte 0xFEFF = 0 ∧ (space true).readByte 0xFF00 = 0 ∧ (space true).readByte 0xFF7F = 0 ∧
    (space true).readByte 0xFFFF = 0 := by decide

/-- M9. -/
theorem test_read_hram : (space true).readByte 0xFF80 = 0x11 ∧ (space true).readByte 0xFFFE = 0x22 := by decide

/-- M11 to M14. -/
theorem test_read_words : (space true).readWord 0x00FF = 0xC2BF ∧ (space true).readWord 0xFFFE = 0x0022 ∧ (space true).readWord 0xFFFF = 0xB000 ∧
    (space true).readWord 0x7FFF = 0x00C5 := by decide

/-- M15. -/
theorem test_write_hram : ((space true).writeByte 0xFF80 0x5A).readByte 0xFF80 = 0x5A ∧ ((space true).writeByte 0xFF80 0x5A).wlog = [] := by decide

/-- M16, M19, M20. -/
theorem test_write_dropped : (space true).writeByte 0xFFFF 0x5A = space true ∧ (space true).writeByte 0x0000 0x5A = space true ∧
    (space true).writeByte 0x4000 0x5A = space true ∧ (space true).writeByte 0xC000 0x5A = space true := by decide

/-- M17, M18. -/
theorem test_write_traced : ((space true).writeByte 0x8000 0x5A).wlog = [(0x8000, 0x5A)] ∧ ((space true).writeByte 0xFF7F 0x5A).wlog = [(0xFF7F, 0x5A)] := by decide

/-- M21, M22. -/
theorem test_write_word : ((space true).writeWordDesc 0xFF90 0x1234).readByte 0xFF90 = 0x12 ∧
    ((space true).writeWordDesc 0xFF90 0x1234).readWord 0xFF8F = 0x1234 := by decide

/-- M23, M24. -/
theorem test_write_word_straddles : ((space true).writeWordDesc 0xFF80 0x1234).readByte 0xFF80 = 0x12 ∧
    ((space true).writeWordDesc 0xFF80 0x1234).wlog = [(0xFF7F, 0x34)] ∧ (space true).writeWordDesc 0x0000 0x1234 = space true := by decide

/-- M25. -/
theorem test_write_word_trace_order : ((space true).writeWordDesc 0x8001 0x1234).wlog = [(0x8001, 0x12), (0x8000, 0x34)] := by decide

/-! ## One step of each instruction -/

/-- V100. -/
theorem test_nop : after { code [0x00] with a := 0x12, f := 0xF0, sp := 0xFFFE } (fun t =>
      t.a == 0x12 && t.f == 0xF0 && t.sp == 0xFFFE && t.pc == 0x0001 && t.cyc == 4) = true := by decide

/-- V101. -/
theorem test_nop_top : after { State.reset with pc := 0xFFFF } (fun t =>
      t.pc == 0x0000 && t.cyc == 4) = true := by decide

/-- V102. -/
theorem test_ldBCd16 : after (code [0x01, 0x34, 0x12]) (fun t =>
      t.b == 0x12 && t.c == 0x34 && t.pc == 0x0003 && t.cyc == 12) = true := by decide

/-- V116. -/
theorem test_ldBCd16_wraps : after { State.reset with pc := 0xFFFE, hram := [(0xFFFE, 0x01)], bootRom := [(0x0000, 0x77)] } (fun t =>
      t.b == 0x77 && t.c == 0x00 && t.pc == 0x0001 && t.cyc == 12) = true := by decide

/-- V103. -/
theorem test_ldDEd16 : after (code [0x11, 0xFF, 0x00]) (fun t =>
      t.d == 0x00 && t.e == 0xFF && t.pc == 0x0003 && t.cyc == 12) = true := by decide

/-- V104. -/
theorem test_ldHLd16 : after (code [0x21, 0xFF, 0x9F]) (fun t =>
      t.h == 0x9F && t.l == 0xFF && t.pc == 0x0003 && t.cyc == 12) = true := by decide

/-- V115. -/
theorem test_ldHLd16_straddles : after { put State.reset 0x00FE [0x21, 0x22, 0x44] with pc := 0x00FE } (fun t =>
      t.h == 0x44 && t.l == 0x22 && t.pc == 0x0101 && t.cyc == 12) = true := by decide

/-- V105, E6. -/
theorem test_ldSPd16 : after (code [0x31, 0xFE, 0xFF]) (fun t =>
      t.sp == 0xFFFE && t.pc == 0x0003 && t.cyc == 12) = true := by decide

/-- V106. -/
theorem test_ldSPd16_frame : after { code [0x31, 0x00, 0x00] with f := 0xF0, a := 0xAA, sp := 0x1234 } (fun t =>
      t.sp == 0x0000 && t.f == 0xF0 && t.a == 0xAA && t.pc == 0x0003 && t.cyc == 12) = true := by decide

/-- V107. -/
theorem test_ldBd8 : after { code [0x06, 0x80] with b := 0x55 } (fun t =>
      t.b == 0x80 && t.pc == 0x0002 && t.cyc == 8) = true := by decide

/-- V108. -/
theorem test_ldCd8 : after { code [0x0E, 0x81] with c := 0x55 } (fun t =>
      t.c == 0x81 && t.pc == 0x0002 && t.cyc == 8) = true := by decide

/-- V109. -/
theorem test_ldDd8 : after { code [0x16, 0x82] with d := 0x55 } (fun t =>
      t.d == 0x82 && t.pc == 0x0002 && t.cyc == 8) = true := by decide

/-- V110. -/
theorem test_ldEd8 : after { code [0x1E, 0x83] with e := 0x55 } (fun t =>
      t.e == 0x83 && t.pc == 0x0002 && t.cyc == 8) = true := by decide

/-- V111. -/
theorem test_ldHd8 : after { code [0x26, 0x84] with h := 0x55 } (fun t =>
      t.h == 0x84 && t.pc == 0x0002 && t.cyc == 8) = true := by decide

/-- V112. -/
theorem test_ldLd8 : after { code [0x2E, 0x85] with l := 0x55 } (fun t =>
      t.l == 0x85 && t.pc == 0x0002 && t.cyc == 8) = true := by decide

/-- V113. -/
theorem test_ldAd8 : after { code [0x3E, 0x86] with a := 0x55 } (fun t =>
      t.a == 0x86 && t.pc == 0x0002 && t.cyc == 8) = true := by decide

/-- V114. -/
theorem test_ldAd8_zero : after { code [0x3E, 0x00] with a := 0x77 } (fun t =>
      t.a == 0x00 && t.f == 0x00 && t.pc == 0x0002 && t.cyc == 8) = true := by decide

/-- V200. -/
theorem test_ldIndBCA : after { code [0x02] with a := 0x5A, b := 0xFF, c := 0x80 } (fun t =>
      t.readByte 0xFF80 == 0x5A && t.wlog == [] && t.pc == 0x0001 && t.cyc == 8) = true := by decide

/-- V201. -/
theorem test_ldIndDEA : after { code [0x12] with a := 0x5A, d := 0x80 } (fun t =>
      t.wlog == [(0x8000, 0x5A)] && t.pc == 0x0001 && t.cyc == 8) = true := by decide

/-- V202. -/
theorem test_ldIndHLA_rom : after { code [0x77] with a := 0x5A, h := 0x40 } (fun t =>
      t.readByte 0x4000 == 0x00 && t.wlog == [] && t.pc == 0x0001 && t.cyc == 8) = true := by decide

/-- V204. -/
theorem test_ldIndHLA_top : after { code [0x77] with a := 0x5A, h := 0xFF, l := 0xFF } (fun t =>
      t.readByte 0xFFFF == 0x00 && t.wlog == [] && t.pc == 0x0001 && t.cyc == 8) = true := by decide

/-- V205. -/
theorem test_ldIndHLDecA : after { code [0x32] with a := 0x11, h := 0xFF, l := 0x80 } (fun t =>
      t.h == 0xFF && t.l == 0x7F && t.readByte 0xFF80 == 0x11 && t.pc == 0x0001 && t.cyc == 8) = true := by decide

/-- V206. -/
theorem test_ldIndHLDecA_wraps : after { code [0x32] with a := 0x11, f := 0x80 } (fun t =>
      t.h == 0xFF && t.l == 0xFF && t.f == 0x80 && t.wlog == [] && t.pc == 0x0001 && t.cyc == 8) = true := by decide

/-- V208. -/
theorem test_ldAIndBC : after { code [0x0A] with b := 0xFF, c := 0xFE, hram := [(0xFFFE, 0xC3)] } (fun t =>
      t.a == 0xC3 && t.pc == 0x0001 && t.cyc == 8) = true := by decide

/-- V209. -/
theorem test_ldAIndDE : after { code [0x1A] with a := 0xFF } (fun t =>
      t.a == 0x1A && t.pc == 0x0001 && t.cyc == 8) = true := by decide

/-- V210. -/
theorem test_ldAIndHL_io : after { code [0x7E] with h := 0xFF, l := 0x44, a := 0xFF } (fun t =>
      t.a == 0x00 && t.pc == 0x0001 && t.cyc == 8) = true := by decide

/-- V212. -/
theorem test_ldAIndHL_bank1 : after { code [0x7E] with h := 0x7F, l := 0xFF, cartRom := [(0x7FFF, 0x99)] } (fun t =>
      t.a == 0x99 && t.pc == 0x0001 && t.cyc == 8) = true := by decide

/-- V213. -/
theorem test_ldHighCA : after { code [0xE2] with a := 0x42, c := 0x80 } (fun t =>
      t.readByte 0xFF80 == 0x42 && t.pc == 0x0001 && t.cyc == 8) = true := by decide

/-- V214. -/
theorem test_ldHighCA_io : after { code [0xE2] with a := 0x42, c := 0x7F } (fun t =>
      t.wlog == [(0xFF7F, 0x42)] && t.pc == 0x0001 && t.cyc == 8) = true := by decide

/-- V216. -/
theorem test_ldhA8A : after { code [0xE0, 0xFE] with a := 0x42 } (fun t =>
      t.readByte 0xFFFE == 0x42 && t.pc == 0x0002 && t.cyc == 12) = true := by decide

/-- V218. -/
theorem test_ldhA8A_50 : after { code [0xE0, 0x50] with a := 0x01 } (fun t =>
      t.wlog == [(0xFF50, 0x01)] && t.bootMapped && t.pc == 0x0002 && t.cyc == 12) = true := by decide

/-- V300, E8. -/
theorem test_xorA : after { code [0xAF] with a := 0x3C } (fun t =>
      t.a == 0x00 && t.f == 0x80 && t.pc == 0x0001 && t.cyc == 4) = true := by decide

/-- V301. -/
theorem test_xorA_retains : after { code [0xAF] with a := 0xFF, f := 0x70 } (fun t =>
      t.a == 0x00 && t.f == 0xF0) = true := by decide

/-- V303. -/
theorem test_incB : after { code [0x04] with b := 0x0F } (fun t =>
      t.b == 0x10 && t.f == 0x20 && t.pc == 0x0001 && t.cyc == 4) = true := by decide

/-- V304. -/
theorem test_incC : after { code [0x0C] with c := 0x0E } (fun t =>
      t.c == 0x0F && t.f == 0x00 && t.pc == 0x0001 && t.cyc == 4) = true := by decide

/-- V305. -/
theorem test_incD : after { code [0x14] with d := 0xFF } (fun t =>
      t.d == 0x00 && t.f == 0xA0 && t.pc == 0x0001 && t.cyc == 4) = true := by decide

/-- V306. -/
theorem test_incE : after { code [0x1C] with e := 0x00, f := 0xF0 } (fun t =>
      t.e == 0x01 && t.f == 0x10 && t.pc == 0x0001 && t.cyc == 4) = true := by decide

/-- V307. -/
theorem test_incH : after { code [0x24] with h := 0x7F, f := 0x10 } (fun t =>
      t.h == 0x80 && t.f == 0x30 && t.pc == 0x0001 && t.cyc == 4) = true := by decide

/-- V308. -/
theorem test_incL : after { code [0x2C] with l := 0xEF, f := 0x40 } (fun t =>
      t.l == 0xF0 && t.f == 0x20 && t.pc == 0x0001 && t.cyc == 4) = true := by decide

/-- V309. -/
theorem test_incA : after { code [0x3C] with a := 0xFF, f := 0x10 } (fun t =>
      t.a == 0x00 && t.f == 0xB0 && t.pc == 0x0001 && t.cyc == 4) = true := by decide

/-- V310. -/
theorem test_rla_zero : after { code [0x17] with a := 0x80 } (fun t =>
      t.a == 0x00 && t.f == 0x90 && t.pc == 0x0001 && t.cyc == 4) = true := by decide

/-- V311. -/
theorem test_rla_carry : after { code [0x17] with a := 0x00, f := 0x10 } (fun t =>
      t.a == 0x01 && t.f == 0x00 && t.pc == 0x0001 && t.cyc == 4) = true := by decide

/-- V314. -/
theorem test_rlB : after { code [0xCB, 0x10] with b := 0x80 } (fun t =>
      t.b == 0x00 && t.f == 0x90 && t.pc == 0x0002 && t.cyc == 8) = true := by decide

/-- V315. -/
theorem test_rlC : after { code [0xCB, 0x11] with c := 0xCE } (fun t =>
      t.c == 0x9C && t.f == 0x10 && t.pc == 0x0002 && t.cyc == 8) = true := by decide

/-- V316. -/
theorem test_rlD : after { code [0xCB, 0x12] with d := 0x01, f := 0x10 } (fun t =>
      t.d == 0x03 && t.f == 0x00 && t.pc == 0x0002 && t.cyc == 8) = true := by decide

/-- V317. -/
theorem test_rlE : after { code [0xCB, 0x13] with e := 0x00 } (fun t =>
      t.e == 0x00 && t.f == 0x80 && t.pc == 0x0002 && t.cyc == 8) = true := by decide

/-- V318. -/
theorem test_rlH : after { code [0xCB, 0x14] with h := 0x7F, f := 0xF0 } (fun t =>
      t.h == 0xFF && t.f == 0x00 && t.pc == 0x0002 && t.cyc == 8) = true := by decide

/-- V319. -/
theorem test_rlL : after { code [0xCB, 0x15] with l := 0xAA } (fun t =>
      t.l == 0x54 && t.f == 0x10 && t.pc == 0x0002 && t.cyc == 8) = true := by decide

/-- V320. -/
theorem test_rlA : after { code [0xCB, 0x17] with a := 0x55, f := 0x10 } (fun t =>
      t.a == 0xAB && t.f == 0x00 && t.pc == 0x0002 && t.cyc == 8) = true := by decide

/-- V321, E7. -/
theorem test_bit7H_clear : after { code [0xCB, 0x7C] with h := 0x00 } (fun t =>
      t.h == 0x00 && t.f == 0xA0 && t.pc == 0x0002 && t.cyc == 8) = true := by decide

/-- V322. -/
theorem test_bit7H_set : after { code [0xCB, 0x7C] with h := 0x80, f := 0x90 } (fun t =>
      t.h == 0x80 && t.f == 0x30 && t.pc == 0x0002 && t.cyc == 8) = true := by decide

/-- V403. -/
theorem test_jrNZ_taken : after (code [0x20, 0x80]) (fun t =>
      t.pc == 0xFF82 && t.cyc == 12) = true := by decide

/-- V401. -/
theorem test_jrNZ_not_taken : after { put State.reset 0x000A [0x20, 0xFB] with pc := 0x000A, f := 0x80 } (fun t =>
      t.pc == 0x000C && t.cyc == 8) = true := by decide

/-- V406. -/
theorem test_pushBC : after { code [0xC5] with b := 0x12, c := 0x34, sp := 0xFFFE } (fun t =>
      t.readByte 0xFFFC == 0x34 && t.readByte 0xFFFD == 0x12 && t.sp == 0xFFFC && t.pc == 0x0001 && t.cyc == 16) = true := by decide

/-- V409. -/
theorem test_pushBC_low : after { code [0xC5] with b := 0x12, c := 0x34, sp := 0xFF81 } (fun t =>
      t.readByte 0xFF80 == 0x12 && t.wlog == [(0xFF7F, 0x34)] && t.sp == 0xFF7F) = true := by decide

/-- V407. -/
theorem test_pushDE : after { code [0xD5] with d := 0xAB, e := 0xCD, sp := 0xFFFF } (fun t =>
      t.readByte 0xFFFE == 0xAB && t.readByte 0xFFFD == 0xCD && t.sp == 0xFFFD && t.pc == 0x0001 && t.cyc == 16) = true := by decide

/-- V419. -/
theorem test_pushDE_vram : after { code [0xD5] with d := 0xAB, e := 0xCD, sp := 0x9000 } (fun t =>
      t.wlog == [(0x8FFF, 0xAB), (0x8FFE, 0xCD)] && t.sp == 0x8FFE) = true := by decide

/-- V408. -/
theorem test_pushHL : after { code [0xE5] with h := 0xAB, l := 0xCD } (fun t =>
      t.readByte 0xFFFE == 0xCD && t.readByte 0xFFFF == 0x00 && t.sp == 0xFFFE && t.pc == 0x0001 && t.cyc == 16) = true := by decide

/-- V411. -/
theorem test_popBC : after { code [0xC1] with sp := 0xFFFC, hram := [(0xFFFC, 0x34), (0xFFFD, 0x12)] } (fun t =>
      t.b == 0x12 && t.c == 0x34 && t.sp == 0xFFFE && t.pc == 0x0001 && t.cyc == 12) = true := by decide

/-- V412. -/
theorem test_popDE : after { code [0xD1] with d := 0xEE, sp := 0xFFFE, hram := [(0xFFFE, 0x77)] } (fun t =>
      t.d == 0x00 && t.e == 0x77 && t.sp == 0x0000 && t.pc == 0x0001 && t.cyc == 12) = true := by decide

/-- V413. -/
theorem test_popHL : after (code [0xE1, 0x99]) (fun t =>
      t.h == 0x99 && t.l == 0xE1 && t.sp == 0x0002 && t.pc == 0x0001 && t.cyc == 12) = true := by decide

/-- V414. -/
theorem test_popHL_flags : after { code [0xE1] with f := 0xF0, sp := 0xFF80, hram := [(0xFF80, 0x01), (0xFF81, 0x02)] } (fun t =>
      t.h == 0x02 && t.l == 0x01 && t.f == 0xF0 && t.sp == 0xFF82) = true := by decide

/-- V416. -/
theorem test_callA16 : after { put State.reset 0x00F0 [0xCD, 0x00, 0x80] with pc := 0x00F0, f := 0xF0, sp := 0xFF90, hram := [(0xFF8F, 0xEE)] } (fun t =>
      t.readByte 0xFF8E == 0xF3 && t.readByte 0xFF8F == 0x00 && t.f == 0xF0 && t.sp == 0xFF8E && t.pc == 0x8000 && t.cyc == 12) = true := by decide

/-- V418. -/
theorem test_callA16_hram : after { put State.reset 0xFFA0 [0xCD, 0x80, 0xFF] with pc := 0xFFA0, sp := 0xFFF0 } (fun t =>
      t.readByte 0xFFEE == 0xA3 && t.readByte 0xFFEF == 0xFF && t.sp == 0xFFEE && t.pc == 0xFF80 && t.cyc == 12) = true := by decide

/-! ## The decode fault and the host's moves -/

/-- V500, E9. -/
theorem test_fault_FF : faults { code [0xFF] with a := 0x12, sp := 0xFFFE } .normal 0xFF = true := by decide

/-- V509. -/
theorem test_fault_keeps_cyc : faults { code [0xD3] with cyc := 12 } .normal 0xD3 = true := by decide

/-- V505. -/
theorem test_fault_CB00 : faults (code [0xCB, 0x00]) .extended 0x00 = true := by decide

/-- V510. -/
theorem test_fault_top : faults { put State.reset 0xFFFE [0xCB] with pc := 0xFFFE } .extended 0x00 = true := by decide

/-- A faulted machine. -/
def faulted : State := (code [0xFF]).raiseDecodeFault { table := .normal, byte := 0xFF }

/-- R214. -/
theorem test_stopped : step faulted = .fault (.stopped { table := .normal, byte := 0xFF, snapshot := (code [0xFF]).snapshot }) := rfl

/-- R241, R34: the CPU is zero, the boot flag stays cleared. -/
theorem test_reset_move : ({ faulted with a := 1, sp := 2, cyc := 4, bootMapped := false }).hostMove .reset =
    .next { code [0xFF] with bootMapped := false } := rfl

/-- R251. -/
theorem test_unmap : (space true).hostMove .unmapBootRom = .next (space false) := rfl

/-- R6, R249. -/
theorem test_short_image : State.reset.loadRom [0x00, 0x01] = none := by decide

/-- R6. -/
theorem test_construct_sizes : State.construct [] [] = none := by decide

/-! ## Witnesses: a concrete state and operands that meet each statement's hypotheses

Each is named after its statement; a conjunction has a conjunct per clause, at the boundary of its range. -/

/-- Any byte 0 can stand at the pc of a running machine. -/
theorem atOpcode_code (b : Byte) : AtOpcode (code [b]) b := ⟨rfl, rfl⟩

/-- So can any byte after the extension byte. -/
theorem atExtended_code (b : Byte) : AtExtended (code [0xCB, b]) b := ⟨rfl, rfl, rfl⟩

theorem highRam_first : InHighRam 0xFF80 := by unfold InHighRam; decide
theorem highRam_last : InHighRam 0xFFFE := by unfold InHighRam; decide
theorem highRam_not_top : ¬InHighRam 0xFFFF := by unfold InHighRam; decide
theorem highRam_not_below : ¬InHighRam 0xFF7F := by unfold InHighRam; decide

theorem witness_SignedOffsetAdditionWraps : (0x7F : Byte).toNat ≤ 0x7F ∧ 0x80 ≤ (0x80 : Byte).toNat := by decide

theorem witness_AddressMapRows :
    ((0x00FF : Word).toNat ≤ 0x00FF ∧ (space true).bootMapped = true) ∧
    ((0x00FF : Word).toNat ≤ 0x00FF ∧ (space false).bootMapped = false) ∧
    (0x0100 ≤ (0x0100 : Word).toNat ∧ (0x7FFF : Word).toNat ≤ 0x7FFF) ∧
    (0x8000 ≤ (0x8000 : Word).toNat ∧ (0x9FFF : Word).toNat ≤ 0x9FFF) ∧
    (0xA000 ≤ (0xA000 : Word).toNat ∧ (0xFEFF : Word).toNat ≤ 0xFEFF) ∧
    (0xFF00 ≤ (0xFF00 : Word).toNat ∧ (0xFF7F : Word).toNat ≤ 0xFF7F) ∧
    (0xFF80 ≤ (0xFF80 : Word).toNat ∧ (0xFFFE : Word).toNat ≤ 0xFFFE) ∧ (0xFFFF : Word).toNat = 0xFFFF := by decide

theorem witness_IndexWithinArray :
    region true 0x0000 = .boot ∧ region true 0x00FF = .boot ∧ region false 0x0000 = .bank0 ∧ region true 0x0100 = .bank0 ∧
    region true 0x3FFF = .bank0 ∧ region true 0x4000 = .bank1 ∧ region true 0x7FFF = .bank1 ∧
    region true 0xFF80 = .hram ∧ region true 0xFFFE = .hram := by decide

theorem witness_ReadAfterWrite :
    InHighRam 0xFF80 ∧ InHighRam 0xFFFE ∧ (0xFF81 : Word) ≠ 0xFF80 ∧ ¬InHighRam 0xFFFF ∧ ¬InHighRam 0xFF7F :=
  ⟨highRam_first, highRam_last, by decide, highRam_not_top, highRam_not_below⟩

theorem witness_BootRomShadowsBankZero :
    ((0x00FF : Word).toNat ≤ 0x00FF ∧ (space true).bootMapped = true) ∧ 0x0100 ≤ (0x0100 : Word).toNat := by decide

theorem witness_WordWrittenReadsBackBelow :
    (InHighRam 0xFF81 ∧ InHighRam (0xFF81 - 1)) ∧ (InHighRam 0xFFFE ∧ InHighRam (0xFFFE - 1)) ∧
    (0x0001 : Word) ≠ 0x0000 ∧ (0x0001 : Word) ≠ 0x0000 - 1 := by unfold InHighRam; decide

theorem witness_StepRunsDecodedInstruction :
    (code [0x01, 0x34, 0x12]).status = .running ∧
    decodeBytes ((code [0x01, 0x34, 0x12]).readByte 0x0000) ((code [0x01, 0x34, 0x12]).readByte (0x0000 + 1))
      ((code [0x01, 0x34, 0x12]).readByte (0x0000 + 2)) = .ok (.ldBCd16 0x1234) := ⟨rfl, rfl⟩

theorem witness_EncodeOfDecode :
    decodeBytes 0x01 0x34 0x12 = .ok (.ldBCd16 0x1234) ∧ decodeBytes 0xCB 0x7C 0x55 = .ok .bit7H := ⟨rfl, rfl⟩

theorem witness_UnassignedBytesAreTheListed :
    (0xFF : Byte) ≠ 0xCB ∧ inRanges 0xFF unassignedNormal ∧ inRanges 0x03 unassignedNormal ∧ ¬inRanges 0x00 unassignedNormal ∧
    inRanges 0xFF unassignedExtended ∧ inRanges 0x0F unassignedExtended ∧ ¬inRanges 0x10 unassignedExtended := by
  unfold inRanges; decide

theorem witness_UnassignedByteTakesDecodeFault :
    (AtOpcode (code [0xFF]) 0xFF ∧ (0xFF : Byte) ≠ 0xCB ∧ inRanges 0xFF unassignedNormal) ∧
    (AtExtended (code [0xCB, 0x16]) 0x16 ∧ inRanges 0x16 unassignedExtended) :=
  ⟨⟨atOpcode_code _, by decide, by unfold inRanges; decide⟩, atExtended_code _, by unfold inRanges; decide⟩

/-- The same two bytes at another pc, with other registers. -/
theorem witness_FaultDependsOnFetchedBytesAlone :
    let s := code [0xCB, 0x16]
    let s' : State := { put State.reset 0x0100 [0xCB, 0x16] with pc := 0x0100, a := 0x12, bootMapped := false }
    s.status = .running ∧ s'.status = .running ∧ s.readByte s.pc = s'.readByte s'.pc ∧
      (s.readByte s.pc = 0xCB → s.readByte (s.pc + 1) = s'.readByte (s'.pc + 1)) ∧
      s.fetchDecode = .error { table := .extended, byte := 0x16 } := ⟨rfl, rfl, rfl, fun _ => rfl, rfl⟩

theorem witness_FaultedMachineTakesNoStep :
    faulted.status = .faulted { table := .normal, byte := 0xFF, snapshot := (code [0xFF]).snapshot } := rfl

theorem witness_NopAdvancesPc : AtOpcode (code [0x00]) 0x00 := atOpcode_code _

theorem witness_LoadStackPointer : AtOpcode (code [0x31]) 0x31 := atOpcode_code _

theorem witness_ImmediatePairLoads :
    AtOpcode (code [0x01]) 0x01 ∧ AtOpcode (code [0x11]) 0x11 ∧ AtOpcode (code [0x21]) 0x21 :=
  ⟨atOpcode_code _, atOpcode_code _, atOpcode_code _⟩

theorem witness_ImmediateByteLoads :
    AtOpcode (code [0x06]) 0x06 ∧ AtOpcode (code [0x0E]) 0x0E ∧ AtOpcode (code [0x16]) 0x16 ∧ AtOpcode (code [0x1E]) 0x1E ∧
    AtOpcode (code [0x26]) 0x26 ∧ AtOpcode (code [0x2E]) 0x2E ∧ AtOpcode (code [0x3E]) 0x3E :=
  ⟨atOpcode_code _, atOpcode_code _, atOpcode_code _, atOpcode_code _, atOpcode_code _, atOpcode_code _, atOpcode_code _⟩

theorem witness_PairStores : AtOpcode (code [0x02]) 0x02 ∧ AtOpcode (code [0x12]) 0x12 ∧ AtOpcode (code [0x77]) 0x77 :=
  ⟨atOpcode_code _, atOpcode_code _, atOpcode_code _⟩

theorem witness_StoreAndDecrement : AtOpcode (code [0x32]) 0x32 := atOpcode_code _

theorem witness_PairLoads : AtOpcode (code [0x0A]) 0x0A ∧ AtOpcode (code [0x1A]) 0x1A ∧ AtOpcode (code [0x7E]) 0x7E :=
  ⟨atOpcode_code _, atOpcode_code _, atOpcode_code _⟩

theorem witness_HighPageStores : AtOpcode (code [0xE2]) 0xE2 ∧ AtOpcode (code [0xE0]) 0xE0 := ⟨atOpcode_code _, atOpcode_code _⟩

theorem witness_XorAClearsAccumulator : AtOpcode (code [0xAF]) 0xAF := atOpcode_code _

theorem witness_Increments :
    AtOpcode (code [0x04]) 0x04 ∧ AtOpcode (code [0x0C]) 0x0C ∧ AtOpcode (code [0x14]) 0x14 ∧ AtOpcode (code [0x1C]) 0x1C ∧
    AtOpcode (code [0x24]) 0x24 ∧ AtOpcode (code [0x2C]) 0x2C ∧ AtOpcode (code [0x3C]) 0x3C :=
  ⟨atOpcode_code _, atOpcode_code _, atOpcode_code _, atOpcode_code _, atOpcode_code _, atOpcode_code _, atOpcode_code _⟩

theorem witness_Rotates :
    AtOpcode (code [0x17]) 0x17 ∧ AtExtended (code [0xCB, 0x10]) 0x10 ∧ AtExtended (code [0xCB, 0x11]) 0x11 ∧
    AtExtended (code [0xCB, 0x12]) 0x12 ∧ AtExtended (code [0xCB, 0x13]) 0x13 ∧ AtExtended (code [0xCB, 0x14]) 0x14 ∧
    AtExtended (code [0xCB, 0x15]) 0x15 ∧ AtExtended (code [0xCB, 0x17]) 0x17 :=
  ⟨atOpcode_code _, atExtended_code _, atExtended_code _, atExtended_code _, atExtended_code _, atExtended_code _,
    atExtended_code _, atExtended_code _⟩

theorem witness_BitTestOfH : AtExtended (code [0xCB, 0x7C]) 0x7C := atExtended_code _

/-- Taken and not taken. -/
theorem witness_JumpIfNotZero :
    (AtOpcode (code [0x20, 0x80]) 0x20 ∧ (code [0x20, 0x80]).f.getLsbD 7 = false) ∧
    (AtOpcode { code [0x20, 0x80] with f := 0x80 } 0x20 ∧ ({ code [0x20, 0x80] with f := 0x80 } : State).f.getLsbD 7 = true) :=
  ⟨⟨⟨rfl, rfl⟩, rfl⟩, ⟨rfl, rfl⟩, rfl⟩

theorem witness_Pushes : AtOpcode (code [0xC5]) 0xC5 ∧ AtOpcode (code [0xD5]) 0xD5 ∧ AtOpcode (code [0xE5]) 0xE5 :=
  ⟨atOpcode_code _, atOpcode_code _, atOpcode_code _⟩

theorem witness_Pops : AtOpcode (code [0xC1]) 0xC1 ∧ AtOpcode (code [0xD1]) 0xD1 ∧ AtOpcode (code [0xE1]) 0xE1 :=
  ⟨atOpcode_code _, atOpcode_code _, atOpcode_code _⟩

theorem witness_Call : AtOpcode (code [0xCD]) 0xCD := atOpcode_code _

theorem witness_EveryInstructionCompletes : (code [0x00]).status = .running := rfl

theorem witness_CycHoldsLastCost :
    exec (.callA16 0x1234) State.reset = .next ((State.reset.push 0x0003).jump 0x1234 12) := rfl

/-- The jump taken, and not taken. -/
theorem witness_PcAfterInstruction :
    exec (.jrNZ 0x80) State.reset = .next (State.reset.jump 0xFF82 12) ∧
    exec (.jrNZ 0x80) { State.reset with f := 0x80 } = .next (State.jump { State.reset with f := 0x80 } 0x0002 8) := ⟨rfl, rfl⟩

theorem witness_SpAfterInstruction : exec .popBC State.reset =
    .next (((State.reset.writePair .bc State.reset.top).dropWord).finish 1 12) := rfl

theorem witness_FlagsAfterInstruction : exec .incB { State.reset with b := 0x0F, f := 0x50 } =
    .next { State.reset with b := 0x10, f := 0x30, pc := 1, cyc := 4 } := rfl

/-- A jump that sees Z kept while C changes, a rotate that sees C kept while Z changes, an instruction that reads no flag. -/
theorem witness_FlagsReadOnlyWhereListed :
    ((isJump (.jrNZ 0) = true → (0x90 : Byte).getLsbD 7 = (0x80 : Byte).getLsbD 7) ∧ isRotate (.jrNZ 0) = false) ∧
    ((isRotate .rlB = true → (0x90 : Byte).getLsbD 4 = (0x10 : Byte).getLsbD 4) ∧ isJump .rlB = false) ∧
    (isJump .incB = false ∧ isRotate .incB = false) := by decide

theorem witness_RegistersWrittenOnlyWhereListed :
    exec .incB State.reset = .next { State.reset with b := 1, pc := 1, cyc := 4 } ∧ Reg.a ≠ .f ∧ Reg.a ∉ writesReg .incB :=
  ⟨rfl, by decide, by decide⟩

theorem witness_RegistersReadOnlyWhereListed :
    (Reg.b ≠ .f ∧ Reg.b ∉ readsReg .popBC ∧ Reg.b ∈ writesReg .popBC) ∧
    (Reg.a ≠ .f ∧ Reg.a ∉ readsReg .popBC ∧ Reg.a ∉ writesReg .popBC) := by decide

/-- A push at the lowest sp that keeps both bytes in high RAM, and an instruction that stores nothing. -/
theorem witness_MemoryFrame :
    (∃ t, exec .pushBC { State.reset with sp := 0xFF82 } = .next t) ∧
    (0xFF82 : Word) ∉ storedTo { State.reset with sp := 0xFF82 } .pushBC ∧ storedTo State.reset .incB = [] :=
  ⟨⟨_, rfl⟩, by decide, rfl⟩

theorem witness_OnlyHighRamChanges : (∃ t, step (code [0xC5]) = .next t) ∧ ¬InHighRam 0xFFFF ∧ ¬InHighRam 0xFF7F :=
  ⟨⟨_, rfl⟩, highRam_not_top, highRam_not_below⟩

theorem witness_RomAndBootFlagUntouched : ∃ t, step (code [0xC5]) = .next t := ⟨_, rfl⟩

theorem witness_BootFlagNeverRearmed :
    ({ State.reset with bootMapped := false } : State).bootMapped = false ∧
    State.hostMoves { State.reset with bootMapped := false, pc := 9 } [.reset, .step, .unmapBootRom] =
      .next { State.reset with bootMapped := false, pc := 1, cyc := 4 } := ⟨rfl, rfl⟩

/-- A store to the first window address, and a push across the lower end of high RAM, of which one byte is traced. -/
theorem witness_TraceAppendsWindowWrites :
    exec .ldIndDEA { State.reset with d := 0x80, a := 0x5A } =
      .next { State.reset with d := 0x80, a := 0x5A, wlog := [(0x8000, 0x5A)], pc := 1, cyc := 8 } ∧
    ∃ t, exec .pushBC { State.reset with b := 0x12, c := 0x34, sp := 0xFF81 } = .next t ∧ t.wlog = [(0xFF7F, 0x34)] :=
  ⟨rfl, _, rfl, rfl⟩

/-- The two ends of the stack window of R256. -/
theorem witness_PushThenPop :
    (0xFF82 ≤ (0xFF82 : Word).toNat ∧
      ∃ t u, exec (pushOf .bc) { State.reset with sp := 0xFF82 } = .next t ∧ exec (popOf .de) t = .next u) ∧
    (0xFF82 ≤ (0xFFFF : Word).toNat ∧
      ∃ t u, exec (pushOf .hl) { State.reset with sp := 0xFFFF } = .next t ∧ exec (popOf .hl) t = .next u) :=
  ⟨⟨by decide, _, _, rfl, rfl⟩, by decide, _, _, rfl, rfl⟩

/-- A machine at `pc` in high RAM with LD (HL),A there and HL = `target`. -/
def storing (pc : Word) (target : Word) : State :=
  { put State.reset pc [0x77] with pc := pc, h := hi target, l := lo target, a := 0x3C }

/-- LD (HL),A whose byte becomes byte 0, byte 1 or byte 2 of the next instruction, at both ends of high RAM; and a CALL to the low
byte of the return address it pushes. -/
theorem witness_StoreSeenByNextFetch :
    (∃ t, (storing 0xFF80 0xFF81).fetchDecode = .ok .ldIndHLA ∧ step (storing 0xFF80 0xFF81) = .next t ∧
      (0xFF81, 0x3C) ∈ storesOf (storing 0xFF80 0xFF81) .ldIndHLA ∧ (0xFF81 : Word) = pcAfter (storing 0xFF80 0xFF81) .ldIndHLA) ∧
    (∃ t, (storing 0xFFFD 0xFFFE).fetchDecode = .ok .ldIndHLA ∧ step (storing 0xFFFD 0xFFFE) = .next t ∧
      (0xFFFE, 0x3C) ∈ storesOf (storing 0xFFFD 0xFFFE) .ldIndHLA ∧ (0xFFFE : Word) = pcAfter (storing 0xFFFD 0xFFFE) .ldIndHLA) ∧
    (∃ t, step (storing 0xFF80 0xFF82) = .next t ∧ (0xFF82, 0x3C) ∈ storesOf (storing 0xFF80 0xFF82) .ldIndHLA ∧
      (0xFF82 : Word) = pcAfter (storing 0xFF80 0xFF82) .ldIndHLA + 1) ∧
    (∃ t, step (storing 0xFF80 0xFF83) = .next t ∧ (0xFF83, 0x3C) ∈ storesOf (storing 0xFF80 0xFF83) .ldIndHLA ∧
      (0xFF83 : Word) = pcAfter (storing 0xFF80 0xFF83) .ldIndHLA + 2) ∧
    (let s : State := { code [0xCD, 0x90, 0xFF] with sp := 0xFF92 }
     ∃ t, s.fetchDecode = .ok (.callA16 0xFF90) ∧ step s = .next t ∧ (0xFF90, 0x03) ∈ storesOf s (.callA16 0xFF90) ∧
      (0xFF90 : Word) = pcAfter s (.callA16 0xFF90)) ∧
    InHighRam 0xFF81 ∧ InHighRam 0xFFFE ∧ InHighRam 0xFF82 ∧ InHighRam 0xFF83 ∧ InHighRam 0xFF90 :=
  ⟨⟨_, rfl, rfl, by decide, rfl⟩, ⟨_, rfl, rfl, by decide, rfl⟩, ⟨_, rfl, by decide, rfl⟩, ⟨_, rfl, by decide, rfl⟩,
    ⟨_, rfl, rfl, by decide, rfl⟩, ⟨by decide, by decide⟩, highRam_last, ⟨by decide, by decide⟩, ⟨by decide, by decide⟩,
    ⟨by decide, by decide⟩⟩

theorem witness_PowerOnAndResetValues : (0x00FF : Word).toNat ≤ 0x00FF ∧ InHighRam 0xFF80 ∧ InHighRam 0xFFFE :=
  ⟨by decide, highRam_first, highRam_last⟩

/-- An image one byte short, and one of exactly 32 KiB with its last byte. -/
theorem witness_LoadedImageIsVisible :
    (List.replicate 32767 (0x5A : Byte)).length < 32768 ∧ 32768 ≤ (List.replicate 32768 (0x5A : Byte)).length ∧
    (0x7FFF : Word).toNat ≤ 0x7FFF ∧ (List.replicate 32768 (0x5A : Byte))[(0x7FFF : Word).toNat]? = some 0x5A := by
  refine ⟨?_, ?_, by decide, ?_⟩
  · rw [List.length_replicate]; decide
  · rw [List.length_replicate]
  · rw [List.getElem?_replicate]; rfl

/-- A state with something in every array and in the trace. -/
theorem inv_example :
    Inv { space true with f := 0xF0, cyc := 16, wlog := [(0x8000, 0x01), (0xFF7F, 0x02)], pc := 0x0100 } where
  memory := by unfold MemoryCanonical; decide
  flags := by unfold FlagsLowZero; decide
  trace := by
    intro r hr
    obtain rfl | rfl : r = (0x8000, 0x01) ∨ r = (0xFF7F, 0x02) := by simpa using hr
    · unfold InWindow; decide
    · unfold InWindow; decide
  record := fun r h => by cases h
  cost := by unfold CostLegal; decide

theorem witness_StepKeepsInv :
    ∃ s t : State, Inv s ∧ step s = .next t ∧ t.status ≠ .running :=
  ⟨_, _, inv_example, rfl, by intro h; cases h⟩

theorem witness_EveryRunKeepsInv :
    ∃ s t : State, Inv s ∧ s.hostMoves [.step, .reset, .unmapBootRom] = .next t := ⟨_, _, inv_example, rfl⟩

/-- The invariant premise of the load's last clause. -/
theorem witness_LoadedImageIsVisible_inv : ∃ s : State, Inv s := ⟨_, inv_example⟩

/-- Arrays of the right sizes, each with its last byte, and each size wrong by one. -/
theorem witness_ConstructedMachine :
    ((List.replicate 255 (0x5A : Byte)).length ≠ 256 ∧ (List.replicate 128 (0x5A : Byte)).length ≠ 127) ∧
    ((List.replicate 256 (0x5A : Byte)).length = 256 ∧ (List.replicate 127 (0x3C : Byte)).length = 127) ∧
    (List.replicate 256 (0x5A : Byte))[(0x00FF : Word).toNat]? = some 0x5A ∧ InHighRam 0xFFFE ∧
    (List.replicate 127 (0x3C : Byte))[(0xFFFE : Word).toNat - 0xFF80]? = some 0x3C := by
  simp only [List.length_replicate, List.getElem?_replicate]
  exact ⟨by decide, by decide, if_pos (by decide), highRam_last, if_pos (by decide)⟩

end Sys2Proof.Tests
end

section
/-! PROOFS. The host's construction of a machine (70_reset_and_hazards.md R240): what it holds, that it has the invariant, and
that `reset()` leaves it as it is. -/

namespace Sys2Proof.Machine

/-! ## Reading the boot ROM -/

/-- While the boot ROM is mapped, its 256 addresses dispatch to it. -/
theorem region_boot {a : Word} (ha : a.toNat ≤ 0x00FF) : region true a = .boot := if_pos ⟨ha, rfl⟩

/-- A read below 0x0100 while the boot ROM is mapped. -/
theorem readByte_bootMapped {s : State} (hm : s.bootMapped = true) {a : Word} (ha : a.toNat ≤ 0x00FF) :
    s.readByte a = (memGet s.bootRom a.toNat).getD (Store.boot.unlisted a.toNat) := by
  simp only [State.readByte, State.regionOf, hm, region_boot ha, Region.backing, State.store]

/-! ## The machine that construction gives -/

/-- The state after power-on with the two contents in their arrays; `construct_of_lengths` ties it to `State.construct`. -/
def State.constructed (boot hram : List Byte) : State :=
  { State.reset with bootRom := memOfImage .boot 0 boot, hram := memOfImage .hram 0xFF80 hram }

theorem construct_of_lengths {boot hram : List Byte} (hb : boot.length = 256) (hh : hram.length = 127) :
    State.construct boot hram = some (State.constructed boot hram) := if_pos ⟨hb, hh⟩

theorem construct_of_boot_length_ne {boot : List Byte} (hram : List Byte) (hb : boot.length ≠ 256) :
    State.construct boot hram = none := if_neg fun h => hb h.1

theorem construct_of_hram_length_ne (boot : List Byte) {hram : List Byte} (hh : hram.length ≠ 127) :
    State.construct boot hram = none := if_neg fun h => hh h.2

theorem readByte_constructed_boot {boot : List Byte} (hram : List Byte) (hb : boot.length = 256) {a : Word} {v : Byte}
    (hv : boot[a.toNat]? = some v) : (State.constructed boot hram).readByte a = v := by
  obtain ⟨hlt, -⟩ := List.getElem?_eq_some_iff.mp hv
  have hread := memGet_memOfImage .boot 0 a.toNat boot v hv
  rw [Nat.zero_add] at hread
  rw [readByte_bootMapped rfl (by omega)]
  exact hread

theorem readByte_constructed_hram (boot : List Byte) {hram : List Byte} {a : Word} {v : Byte} (ha : InHighRam a)
    (hv : hram[a.toNat - 0xFF80]? = some v) : (State.constructed boot hram).readByte a = v := by
  have hread := memGet_memOfImage .hram 0xFF80 (a.toNat - 0xFF80) hram v hv
  rw [Nat.add_sub_cancel' ha.1] at hread
  rw [readByte_highRam _ ha]
  exact hread

theorem constructed_canonical {boot hram : List Byte} (hb : boot.length = 256) (hh : hram.length = 127) :
    MemoryCanonical (State.constructed boot hram) :=
  ⟨memOfImage_wf .boot 0 boot (by simp [hb, Store.last]), rfl,
    memOfImage_wf .hram 0xFF80 hram (by simp [hh, Store.last])⟩

/-- Beside the arrays the invariant speaks of the flags, the trace, the status and the counter, which are those of power-on. -/
theorem constructed_inv {boot hram : List Byte} (hb : boot.length = 256) (hh : hram.length = 127) :
    Inv (State.constructed boot hram) where
  memory := constructed_canonical hb hh
  flags := show (0 : Byte) &&& 0x0F = 0 from rfl
  trace := fun _ hr => nomatch hr
  record := fun _ hs => nomatch hs
  cost := .inl rfl

/-- R241: the CPU of a machine just constructed already holds what `reset()` writes. -/
@[simp] theorem cpuReset_constructed (boot hram : List Byte) :
    (State.constructed boot hram).cpuReset = State.constructed boot hram := rfl

/-- Settles O59: the two contents read back through the address map, and the rest of the machine is the power-on state. -/
theorem constructedMachine : Obligations.ConstructedMachine := by
  intro boot hram
  refine ⟨construct_of_boot_length_ne hram, construct_of_hram_length_ne boot, fun hb hh => ?_⟩
  refine ⟨State.constructed boot hram, construct_of_lengths hb hh, ?_, ?_, rfl, constructed_inv hb hh, ?_⟩
  · exact fun _ _ hv => readByte_constructed_boot hram hb hv
  · exact fun _ _ ha hv => readByte_constructed_hram boot ha hv
  · rw [State.hostMove, cpuReset_constructed]

end Sys2Proof.Machine
end

section
/-! PROOFS. Every instruction as one effect: the bytes it stores, the registers it writes, the flags it writes, and the sp, the
pc and the cost of the tables of the statements. `exec_eq_apply` says once that this is what `exec` does. -/

namespace Sys2Proof.Machine

open Sys2Proof.Claims

/-! ## Writing a list of bytes, of registers, of flags -/

/-- The writes of a list of bytes, in its order (20_memory.md R56). -/
def State.writeBytes (s : State) (ws : List (Word × Byte)) : State := ws.foldl (fun t w => t.writeByte w.1 w.2) s

/-- The writes of a list of registers, in its order (00_scope.md R7). -/
def State.writeRegs (s : State) (ws : List (Reg × Byte)) : State := ws.foldl (fun t w => t.writeReg w.1 w.2) s

/-- The writes of a list of flags, in its order (00_scope.md R7). -/
def State.setFlags (s : State) (ws : List (Flag × Bool)) : State := ws.foldl (fun t w => t.setFlag w.1 w.2) s

/-! ## The effect of an instruction -/

/-- Everything an instruction does, in the order it does it. -/
structure Effect where
  stores : List (Word × Byte)
  regs : List (Reg × Byte)
  flags : List (Flag × Bool)
  sp : Word
  pc : Word
  cyc : CycleCount

/-- The state an effect gives; `exec_eq_apply` ties it to `exec`. -/
def State.apply (s : State) (e : Effect) : State :=
  { ((s.writeBytes e.stores).writeRegs e.regs).setFlags e.flags with sp := e.sp, pc := e.pc, cyc := e.cyc }

/-- The two register writes of `xp[p] <- w` (10_state.md R13). -/
def pairWrites (p : Pair) (w : Word) : List (Reg × Byte) := [(p.high, highByte w), (p.low, lowByte w)]

/-- The registers an instruction writes, each with its value (10_state.md R12). -/
def regWrites (s : State) : Instr → List (Reg × Byte)
  | .ldBCd16 imm => pairWrites .bc imm
  | .ldDEd16 imm => pairWrites .de imm
  | .ldHLd16 imm => pairWrites .hl imm
  | .ldBd8 imm => [(.b, imm)]
  | .ldCd8 imm => [(.c, imm)]
  | .ldDd8 imm => [(.d, imm)]
  | .ldEd8 imm => [(.e, imm)]
  | .ldHd8 imm => [(.h, imm)]
  | .ldLd8 imm => [(.l, imm)]
  | .ldAd8 imm => [(.a, imm)]
  | .ldIndHLDecA => pairWrites .hl (s.pairAddr .hl - 1)
  | .ldAIndBC => [(.a, s.readByte (s.pairAddr .bc))]
  | .ldAIndDE => [(.a, s.readByte (s.pairAddr .de))]
  | .ldAIndHL => [(.a, s.readByte (s.pairAddr .hl))]
  | .xorA => [(.a, 0)]
  | .incB => [(.b, (inc8 s.b).res)]
  | .incC => [(.c, (inc8 s.c).res)]
  | .incD => [(.d, (inc8 s.d).res)]
  | .incE => [(.e, (inc8 s.e).res)]
  | .incH => [(.h, (inc8 s.h).res)]
  | .incL => [(.l, (inc8 s.l).res)]
  | .incA => [(.a, (inc8 s.a).res)]
  | .rla => [(.a, (rl9 s.a (s.flag .c)).res)]
  | .rlB => [(.b, (rl9 s.b (s.flag .c)).res)]
  | .rlC => [(.c, (rl9 s.c (s.flag .c)).res)]
  | .rlD => [(.d, (rl9 s.d (s.flag .c)).res)]
  | .rlE => [(.e, (rl9 s.e (s.flag .c)).res)]
  | .rlH => [(.h, (rl9 s.h (s.flag .c)).res)]
  | .rlL => [(.l, (rl9 s.l (s.flag .c)).res)]
  | .rlA => [(.a, (rl9 s.a (s.flag .c)).res)]
  | .popBC => pairWrites .bc s.top
  | .popDE => pairWrites .de s.top
  | .popHL => pairWrites .hl s.top
  | .nop | .ldSPd16 _ | .ldIndBCA | .ldIndDEA | .ldIndHLA | .ldHighCA | .ldhA8A _ | .bit7H | .jrNZ _ | .pushBC | .pushDE
  | .pushHL | .callA16 _ => []

/-- The flag writes of INC r and of BIT 7,H: the Carry flag is none of them. -/
def flagsZNH (o : AluOut) : List (Flag × Bool) := [(.z, o.z), (.n, o.n), (.h, o.h)]

/-- The flag writes of the rotates. -/
def flagsZNHC (o : AluOut) : List (Flag × Bool) := [(.z, o.z), (.n, o.n), (.h, o.h), (.c, o.c)]

/-- The flags an instruction writes, each with its value (10_state.md R16). -/
def flagWrites (s : State) : Instr → List (Flag × Bool)
  | .xorA => [(.z, true)]
  | .incB => flagsZNH (inc8 s.b)
  | .incC => flagsZNH (inc8 s.c)
  | .incD => flagsZNH (inc8 s.d)
  | .incE => flagsZNH (inc8 s.e)
  | .incH => flagsZNH (inc8 s.h)
  | .incL => flagsZNH (inc8 s.l)
  | .incA => flagsZNH (inc8 s.a)
  | .rla => flagsZNHC (rl9 s.a (s.flag .c))
  | .rlB => flagsZNHC (rl9 s.b (s.flag .c))
  | .rlC => flagsZNHC (rl9 s.c (s.flag .c))
  | .rlD => flagsZNHC (rl9 s.d (s.flag .c))
  | .rlE => flagsZNHC (rl9 s.e (s.flag .c))
  | .rlH => flagsZNHC (rl9 s.h (s.flag .c))
  | .rlL => flagsZNHC (rl9 s.l (s.flag .c))
  | .rlA => flagsZNHC (rl9 s.a (s.flag .c))
  | .bit7H => flagsZNH (bit7 s.h)
  | _ => []

/-- The effect of an instruction in a state, from the tables above and those of the statements. -/
def effect (s : State) (i : Instr) : Effect where
  stores := storesOf s i
  regs := regWrites s i
  flags := flagWrites s i
  sp := spAfter s i
  pc := pcAfter s i
  cyc := BitVec.ofNat 64 (costOf s i)

/-! ## `exec` is the effect -/

/-- The bytes a push writes, as a list (44_control_and_stack.md R191). -/
theorem push_eq_writeBytes (s : State) (w : Word) :
    s.push w = { s.writeBytes [(s.sp - 1, hi w), (s.sp - 2, lo w)] with sp := s.sp - 2 } := by
  have hsp : s.sp - 1 - 1 = s.sp - 2 := by bv_omega
  simp only [State.push, State.writeWordDesc, hsp]
  rfl

theorem hi_readPair (s : State) (p : Pair) : hi (s.readPair p) = s.readReg p.high := BitVec.extractLsb'_append_eq_left

theorem lo_readPair (s : State) (p : Pair) : lo (s.readPair p) = s.readReg p.low := BitVec.extractLsb'_append_eq_right

/-- A push of a pair writes the pair's two registers, the first-named one first. -/
theorem push_readPair (s : State) (p : Pair) :
    s.push (s.readPair p) =
      { s.writeBytes [(s.sp - 1, s.readReg p.high), (s.sp - 2, s.readReg p.low)] with sp := s.sp - 2 } := by
  rw [push_eq_writeBytes, hi_readPair, lo_readPair]

/-- The end of an instruction that has left the sp and the pc as `sp` and `pc` give them. -/
theorem finish_eq_of {t : State} {sp pc : Word} (len : Word) (cost : CycleCount) (hsp : t.sp = sp) (hpc : t.pc = pc) :
    t.finish len cost = { t with sp := sp, pc := pc + len, cyc := cost } := by
  subst hsp hpc
  rfl

theorem finish_writeByte (s : State) (a : Word) (v : Byte) (len : Word) (cost : CycleCount) :
    (s.writeByte a v).finish len cost = { s.writeByte a v with sp := s.sp, pc := s.pc + len, cyc := cost } :=
  finish_eq_of len cost (writeByte_sp s a v) (writeByte_pc s a v)

theorem finish_push_readPair (s : State) (p : Pair) (len : Word) (cost : CycleCount) :
    (s.push (s.readPair p)).finish len cost =
      { s.writeBytes [(s.sp - 1, s.readReg p.high), (s.sp - 2, s.readReg p.low)] with
        sp := s.sp - 2, pc := s.pc + len, cyc := cost } := by
  rw [finish_eq_of len cost (push_sp s _) (push_pc s _), push_readPair]

/-- Both outcomes of the jump: the model asks the flag, the tables ask bit 7 of F. -/
theorem execJrNZ_eq_apply (off : Byte) (s : State) : execJrNZ off s = .next (s.apply (effect s (.jrNZ off))) := by
  have hz : s.f.getLsbD 7 = s.flag .z := rfl
  simp only [execJrNZ, effect, pcAfter, costOf, hz]
  cases s.flag .z <;> rfl

theorem xorAcc_retain (s : State) : s.xorAcc .retain = (s.writeReg .a 0).setFlag .z true := by
  simp only [State.xorAcc, xorSelf, BitVec.xor_self]
  rfl

/-- Every instruction completes, in the state its effect gives. -/
theorem exec_eq_apply (i : Instr) (s : State) : exec i s = .next (s.apply (effect s i)) := by
  cases i with
  | jrNZ off => exact execJrNZ_eq_apply off s
  | ldIndBCA | ldIndDEA | ldIndHLA | ldHighCA | ldhA8A => exact congrArg Host.Outcome.next (finish_writeByte s _ _ _ _)
  | ldIndHLDecA => exact congrArg Host.Outcome.next (finish_eq_of (sp := s.sp) (pc := s.pc) _ _ (by simp) (by simp))
  | pushBC => exact congrArg Host.Outcome.next (finish_push_readPair s .bc _ _)
  | pushDE => exact congrArg Host.Outcome.next (finish_push_readPair s .de _ _)
  | pushHL => exact congrArg Host.Outcome.next (finish_push_readPair s .hl _ _)
  | callA16 target => simp only [exec, execCallA16, push_eq_writeBytes]; rfl
  | xorA => simp only [exec, execXorA, Config.xorANHC, xorAcc_retain]; rfl
  | _ => rfl

theorem eq_apply_of_exec {i : Instr} {s t : State} (h : exec i s = .next t) : t = s.apply (effect s i) := by
  rw [exec_eq_apply] at h
  exact (Host.Outcome.next.inj h).symm

end Sys2Proof.Machine
end

section
/-! PROOFS. What an effect changes and what it keeps, component by component. -/

namespace Sys2Proof.Machine

open Sys2Proof.Claims

/-! ## What no write of a list touches -/

section Keeps

variable {β : Type} (g : State → β)

theorem writeBytes_keeps (h : ∀ t a v, g (State.writeByte t a v) = g t) (s : State) (ws : List (Word × Byte)) :
    g (s.writeBytes ws) = g s :=
  List.foldlRecOn (motive := fun t => g t = g s) ws _ rfl fun t ht w _ => (h t w.1 w.2).trans ht

theorem writeRegs_keeps (s : State) (ws : List (Reg × Byte))
    (h : ∀ t v, ∀ r ∈ ws.map Prod.fst, g (State.writeReg t r v) = g t) : g (s.writeRegs ws) = g s :=
  List.foldlRecOn (motive := fun t => g t = g s) ws _ rfl fun t ht w hw =>
    (h t w.2 w.1 (List.mem_map_of_mem hw)).trans ht

theorem setFlags_keeps (h : ∀ t fl v, g (State.setFlag t fl v) = g t) (s : State) (ws : List (Flag × Bool)) :
    g (s.setFlags ws) = g s :=
  List.foldlRecOn (motive := fun t => g t = g s) ws _ rfl fun t ht w _ => (h t w.1 w.2).trans ht

/-- What neither the register writes nor the flag writes touch is what the byte writes leave. -/
theorem apply_keeps_writeBytes (s : State) (e : Effect)
    (hr : ∀ t v, ∀ r ∈ e.regs.map Prod.fst, g (State.writeReg t r v) = g t) (hf : ∀ t fl v, g (State.setFlag t fl v) = g t)
    (hend : ∀ t sp pc cyc, g { t with sp := sp, pc := pc, cyc := cyc } = g t) :
    g (s.apply e) = g (s.writeBytes e.stores) := by
  rw [State.apply, hend, setFlags_keeps g hf, writeRegs_keeps g _ _ hr]

/-- What no write touches is as before. -/
theorem apply_keeps (s : State) (e : Effect) (hb : ∀ t a v, g (State.writeByte t a v) = g t)
    (hr : ∀ t v, ∀ r ∈ e.regs.map Prod.fst, g (State.writeReg t r v) = g t) (hf : ∀ t fl v, g (State.setFlag t fl v) = g t)
    (hend : ∀ t sp pc cyc, g { t with sp := sp, pc := pc, cyc := cyc } = g t) : g (s.apply e) = g s := by
  rw [apply_keeps_writeBytes g s e hr hf hend, writeBytes_keeps g hb]

end Keeps

/-! ## The fields after an effect -/

@[simp] theorem apply_sp (s : State) (e : Effect) : (s.apply e).sp = e.sp := rfl
@[simp] theorem apply_pc (s : State) (e : Effect) : (s.apply e).pc = e.pc := rfl
@[simp] theorem apply_cyc (s : State) (e : Effect) : (s.apply e).cyc = e.cyc := rfl

@[simp] theorem apply_status (s : State) (e : Effect) : (s.apply e).status = s.status :=
  apply_keeps State.status s e writeByte_status (fun t v r _ => writeReg_status t r v) setFlag_status fun _ _ _ _ => rfl

@[simp] theorem apply_bootMapped (s : State) (e : Effect) : (s.apply e).bootMapped = s.bootMapped :=
  apply_keeps State.bootMapped s e writeByte_bootMapped (fun t v r _ => writeReg_bootMapped t r v) setFlag_bootMapped
    fun _ _ _ _ => rfl

@[simp] theorem apply_bootRom (s : State) (e : Effect) : (s.apply e).bootRom = s.bootRom :=
  apply_keeps State.bootRom s e writeByte_bootRom (fun t v r _ => writeReg_bootRom t r v) setFlag_bootRom fun _ _ _ _ => rfl

@[simp] theorem apply_cartRom (s : State) (e : Effect) : (s.apply e).cartRom = s.cartRom :=
  apply_keeps State.cartRom s e writeByte_cartRom (fun t v r _ => writeReg_cartRom t r v) setFlag_cartRom fun _ _ _ _ => rfl

@[simp] theorem apply_hram (s : State) (e : Effect) : (s.apply e).hram = (s.writeBytes e.stores).hram :=
  apply_keeps_writeBytes State.hram s e (fun t v r _ => writeReg_hram t r v) setFlag_hram fun _ _ _ _ => rfl

@[simp] theorem apply_wlog (s : State) (e : Effect) : (s.apply e).wlog = (s.writeBytes e.stores).wlog :=
  apply_keeps_writeBytes State.wlog s e (fun t v r _ => writeReg_wlog t r v) setFlag_wlog fun _ _ _ _ => rfl

/-- A register the effect does not write. -/
theorem readReg_apply_other (s : State) (e : Effect) {r : Reg} (hf : r ≠ .f) (h : r ∉ e.regs.map Prod.fst) :
    (s.apply e).readReg r = s.readReg r :=
  apply_keeps (State.readReg · r) s e (fun t a v => readReg_writeByte t a v r)
    (fun t v r' hr' => readReg_writeReg_other t v fun (heq : r = r') => h (heq ▸ hr'))
    (fun t fl v => readReg_setFlag t fl v hf) fun _ _ _ _ => rfl

/-! ## F after an effect -/

/-- F before the flag writes: the register writes leave it, unless it is itself among them. -/
theorem f_writeRegs_writeBytes (s : State) (e : Effect) (h : Reg.f ∉ e.regs.map Prod.fst) :
    ((s.writeBytes e.stores).writeRegs e.regs).f = s.f := by
  have hne : ∀ r ∈ e.regs.map Prod.fst, r ≠ .f := fun r hr heq => h (heq ▸ hr)
  rw [writeRegs_keeps State.f _ _ fun t v r hr => f_writeReg_operand t v (hne r hr), writeBytes_keeps State.f writeByte_f]

/-- Bits 3 to 0 of F, which no flag write touches. -/
theorem lowBits_apply (s : State) (e : Effect) (h : Reg.f ∉ e.regs.map Prod.fst) : (s.apply e).f &&& 0x0F = s.f &&& 0x0F := by
  rw [← f_writeRegs_writeBytes s e h]
  exact setFlags_keeps (fun t : State => t.f &&& 0x0F) lowBits_setFlag _ e.flags

/-! ## The trace and the arrays after byte writes -/

/-- The write is to one of the two windows, so it is traced (20_memory.md R51, R52). -/
def isWindowWrite (w : Word × Byte) : Bool :=
  decide ((0x8000 ≤ w.1.toNat ∧ w.1.toNat ≤ 0x9FFF) ∨ (0xFF00 ≤ w.1.toNat ∧ w.1.toNat ≤ 0xFF7F))

theorem isWindowWrite_iff (w : Word × Byte) : isWindowWrite w = true ↔ InWindow w.1 := decide_eq_true_iff

theorem writeByte_wlog (s : State) (w : Word × Byte) :
    (s.writeByte w.1 w.2).wlog = s.wlog ++ [w].filter isWindowWrite := by
  rcases writeByte_cases s w.1 w.2 with ⟨hh, he⟩ | ⟨hw, he⟩ | ⟨-, hw, he⟩
  · have hw := mt (isWindowWrite_iff w).mp (not_window_of_highRam hh)
    simp [he, hw]
  · simp [he, (isWindowWrite_iff w).mpr hw]
  · have hw := mt (isWindowWrite_iff w).mp hw
    simp [he, hw]

theorem writeBytes_wlog (s : State) (ws : List (Word × Byte)) :
    (s.writeBytes ws).wlog = s.wlog ++ ws.filter isWindowWrite := by
  induction ws generalizing s with
  | nil => exact (List.append_nil _).symm
  | cons w ws ih =>
    calc ((s.writeByte w.1 w.2).writeBytes ws).wlog
        = (s.writeByte w.1 w.2).wlog ++ ws.filter isWindowWrite := ih _
      _ = s.wlog ++ ([w] ++ ws).filter isWindowWrite := by rw [writeByte_wlog, List.append_assoc, List.filter_append]

theorem writeByte_canonical {s : State} (a : Word) (v : Byte) (h : MemoryCanonical s) :
    MemoryCanonical (s.writeByte a v) := by
  obtain ⟨hboot, hcart, hhram⟩ := h
  rcases writeByte_cases s a v with ⟨⟨hlo, hhi⟩, he⟩ | ⟨-, he⟩ | ⟨-, -, he⟩ <;> rw [he]
  · exact ⟨hboot, hcart, memPut_wf .hram hlo hhi hhram⟩
  · exact ⟨hboot, hcart, hhram⟩
  · exact ⟨hboot, hcart, hhram⟩

theorem writeBytes_canonical {s : State} (ws : List (Word × Byte)) (h : MemoryCanonical s) :
    MemoryCanonical (s.writeBytes ws) :=
  List.foldlRecOn (motive := MemoryCanonical) ws _ h fun _ ht w _ => writeByte_canonical w.1 w.2 ht

/-! ## The tables of an instruction's effect -/

theorem regWrites_regs (s : State) (i : Instr) : (regWrites s i).map Prod.fst = writesReg i := by cases i <;> rfl

/-- F is no instruction's operand (10_state.md R12). -/
theorem f_notMem_writesReg (i : Instr) : Reg.f ∉ writesReg i := by cases i <;> simp [writesReg]

theorem f_notMem_readsReg (i : Instr) : Reg.f ∉ readsReg i := by cases i <;> simp [readsReg]

theorem f_notMem_effect_regs (s : State) (i : Instr) : Reg.f ∉ (effect s i).regs.map Prod.fst :=
  regWrites_regs s i ▸ f_notMem_writesReg i

/-- The costs of 70_reset_and_hazards.md R260. -/
theorem costOf_cases (s : State) (i : Instr) : costOf s i = 4 ∨ costOf s i = 8 ∨ costOf s i = 12 ∨ costOf s i = 16 := by
  cases i with
  | jrNZ off => simp only [costOf]; split <;> simp
  | _ => simp [costOf]

end Sys2Proof.Machine
end

section
/-! PROOFS. The invariant and the host's moves: one step, one move, a sequence of moves (10_state.md, 70_reset_and_hazards.md
section 2). -/

namespace Sys2Proof.Machine

open Sys2Proof.Claims

/-! ## Power-on and reset() -/

theorem reset_canonical : MemoryCanonical State.reset := ⟨rfl, rfl, rfl⟩

/-- Settles O56: every array is empty, and so is the trace. -/
theorem invHoldsAtReset : Obligations.InvHoldsAtReset where
  memory := reset_canonical
  flags := show (0 : Byte) &&& 0x0F = 0 from rfl
  trace := fun _ hr => nomatch hr
  record := fun _ hs => nomatch hs
  cost := .inl rfl

theorem readReg_reset (r : Reg) : State.reset.readReg r = 0 := by cases r <;> rfl

theorem flag_reset (fl : Flag) : State.reset.flag fl = false := by cases fl <;> rfl

theorem readReg_cpuReset (s : State) (r : Reg) : s.cpuReset.readReg r = 0 := by cases r <;> rfl

/-- Settles O54: the empty arrays read as the two parameters and as the cartridge's fill byte. -/
theorem powerOnAndResetValues : Obligations.PowerOnAndResetValues := by
  refine ⟨⟨readReg_reset, flag_reset, rfl, rfl, rfl, rfl, rfl, rfl, ?_, ?_, fun _ => rfl⟩, fun s => ?_⟩
  · exact fun _ ha => readByte_bootMapped rfl ha
  · exact fun _ ha => readByte_highRam State.reset ha
  · exact ⟨s.cpuReset, rfl, readReg_cpuReset s, rfl, rfl, rfl, rfl, rfl, rfl, rfl, rfl, rfl⟩

/-! ## The invariant -/

theorem traceInWindows_writeBytes {s : State} (ws : List (Word × Byte)) (h : TraceInWindows s) :
    TraceInWindows (s.writeBytes ws) := by
  intro w hw
  rw [writeBytes_wlog, List.mem_append] at hw
  rcases hw with hold | hnew
  · exact h w hold
  · exact (isWindowWrite_iff w).mp (List.mem_filter.mp hnew).2

theorem costLegal_apply_effect (s : State) (i : Instr) : CostLegal (s.apply (effect s i)) := by
  rcases costOf_cases s i with h | h | h | h <;> simp [CostLegal, effect, h]

/-- An instruction keeps the invariant in a running machine, which has no fault record. -/
theorem apply_effect_inv {s : State} (hs : s.status = .running) (h : Inv s) (i : Instr) : Inv (s.apply (effect s i)) where
  memory := by
    obtain ⟨hboot, hcart, hhram⟩ := writeBytes_canonical (storesOf s i) h.memory
    rw [writeBytes_keeps State.bootRom writeByte_bootRom] at hboot
    rw [writeBytes_keeps State.cartRom writeByte_cartRom] at hcart
    unfold MemoryCanonical
    rw [apply_bootRom, apply_cartRom, apply_hram]
    exact ⟨hboot, hcart, hhram⟩
  flags := (lowBits_apply s _ (f_notMem_effect_regs s i)).trans h.flags
  trace := by
    unfold TraceInWindows
    rw [apply_wlog]
    exact traceInWindows_writeBytes (storesOf s i) h.trace
  record := by
    intro r hr
    rw [apply_status, hs] at hr
    cases hr
  cost := costLegal_apply_effect s i

/-- The decode fault keeps the invariant: its record holds the ten values as they are. -/
theorem raiseDecodeFault_inv {s : State} (h : Inv s) (u : Unassigned) : Inv (s.raiseDecodeFault u) where
  memory := h.memory
  flags := h.flags
  trace := h.trace
  record := by
    intro r hr
    obtain rfl := Status.faulted.inj hr
    rfl
  cost := h.cost

/-- Settles O57: a step that answers a next state ran an instruction or took the decode fault. -/
theorem stepKeepsInv : Obligations.StepKeepsInv := by
  intro s t hinv hstep
  rcases step_cases s with ⟨i, hs, -, he⟩ | ⟨u, -, -, he⟩ | ⟨r, -, he⟩ <;> rw [he] at hstep
  · rw [eq_apply_of_exec hstep]
    exact apply_effect_inv hs hinv i
  · obtain rfl := Host.Outcome.next.inj hstep
    exact raiseDecodeFault_inv hinv u
  · cases hstep

theorem cpuReset_inv {s : State} (h : Inv s) : Inv s.cpuReset where
  memory := h.memory
  flags := show (0 : Byte) &&& 0x0F = 0 from rfl
  trace := h.trace
  record := fun _ hs => nomatch hs
  cost := .inl rfl

theorem unmapBootRom_inv {s : State} (h : Inv s) : Inv s.unmapBootRom where
  memory := h.memory
  flags := h.flags
  trace := h.trace
  record := h.record
  cost := h.cost

theorem hostMove_inv {s t : State} {m : HostMove} (h : Inv s) (hm : s.hostMove m = .next t) : Inv t := by
  cases m with
  | step => exact stepKeepsInv s t h hm
  | reset => exact Host.Outcome.next.inj hm ▸ cpuReset_inv h
  | unmapBootRom => exact Host.Outcome.next.inj hm ▸ unmapBootRom_inv h

/-! ## Sequences of the host's moves -/

/-- The first move of a sequence that answers a next state answers one itself. -/
theorem hostMoves_cons {s t : State} {m : HostMove} {ms : List HostMove} (h : s.hostMoves (m :: ms) = .next t) :
    ∃ u, s.hostMove m = .next u ∧ u.hostMoves ms = .next t := by
  unfold State.hostMoves at h
  cases hm : s.hostMove m with
  | next u => exact ⟨u, rfl, by rwa [hm] at h⟩
  | fault r => rw [hm] at h; cases h
  | refused r => rw [hm] at h; cases h

/-- What every move keeps, every sequence of moves keeps. -/
theorem hostMoves_keep {P : State → Prop} (hP : ∀ {s t : State} {m : HostMove}, P s → s.hostMove m = .next t → P t)
    {ms : List HostMove} {s t : State} (hs : P s) (h : s.hostMoves ms = .next t) : P t := by
  induction ms generalizing s with
  | nil => exact Host.Outcome.next.inj h ▸ hs
  | cons m ms ih =>
    obtain ⟨u, hm, hu⟩ := hostMoves_cons h
    exact ih (hP hs hm) hu

/-- Settles O58, by induction on the moves. -/
theorem everyRunKeepsInv : Obligations.EveryRunKeepsInv := fun _ _ _ hs h => hostMoves_keep hostMove_inv hs h

/-! ## The boot flag and the two images -/

/-- Settles O49: no byte write, register write or flag write of an effect touches the boot flag or an image. -/
theorem romAndBootFlagUntouched : Obligations.RomAndBootFlagUntouched := by
  intro s t hstep
  rcases step_cases s with ⟨i, hs, -, he⟩ | ⟨u, hs, -, he⟩ | ⟨r, -, he⟩ <;> rw [he] at hstep
  · rw [eq_apply_of_exec hstep]
    exact ⟨apply_bootMapped s _, apply_bootRom s _, apply_cartRom s _, hs⟩
  · obtain rfl := Host.Outcome.next.inj hstep
    exact ⟨rfl, rfl, rfl, hs⟩
  · cases hstep

theorem hostMove_bootMapped_false {s t : State} {m : HostMove} (h : s.bootMapped = false) (hm : s.hostMove m = .next t) :
    t.bootMapped = false := by
  cases m with
  | step =>
    obtain ⟨hboot, -⟩ := romAndBootFlagUntouched s t hm
    exact hboot.trans h
  | reset => exact Host.Outcome.next.inj hm ▸ h
  | unmapBootRom => exact Host.Outcome.next.inj hm ▸ unmapBootRom_bootMapped s

/-- Settles O50, by induction on the moves. -/
theorem bootFlagNeverRearmed : Obligations.BootFlagNeverRearmed := fun _ _ _ hs h =>
  hostMoves_keep (P := fun s => s.bootMapped = false) hostMove_bootMapped_false hs h

end Sys2Proof.Machine
end

section
/-! PROOFS. What each instruction leaves in cyc, pc, sp, F and the operand registers, and what it reads (10_state.md R12 to
R28). -/

namespace Sys2Proof.Machine

open Sys2Proof.Claims

/-! ## cyc, pc, sp and the trace, read off the effect -/

/-- Settles O40: the effect's cost is the table's, which fits the counter. -/
theorem cycHoldsLastCost : Obligations.CycHoldsLastCost := by
  intro i s t h
  rw [eq_apply_of_exec h, apply_cyc]
  rcases costOf_cases s i with hc | hc | hc | hc <;> simp [effect, hc]

/-- Settles O41: the effect's pc is the table's. -/
theorem pcAfterInstruction : Obligations.PcAfterInstruction := by
  intro i s t h
  rw [eq_apply_of_exec h, apply_pc]
  rfl

/-- Settles O42: the effect's sp is the table's. -/
theorem spAfterInstruction : Obligations.SpAfterInstruction := by
  intro i s t h
  rw [eq_apply_of_exec h, apply_sp]
  rfl

/-- Settles O51: only the byte writes of an effect reach the trace. -/
theorem traceAppendsWindowWrites : Obligations.TraceAppendsWindowWrites := by
  intro i s t h
  rw [eq_apply_of_exec h, apply_wlog]
  exact writeBytes_wlog s (storesOf s i)

/-! ## The flags -/

/-- The two forms of the half-carry of an increment (40_fetch_decode_execute.md R110). -/
theorem inc8_h (v : Byte) : (inc8 v).h = decide (v.toNat % 16 = 15) := by revert v; decide

theorem rl9_z (v : Byte) (cin : Bool) : (rl9 v cin).z = decide (v.toNat % 128 = 0 ∧ cin = false) := by
  revert v cin; decide

/-- The flags after the writes of an INC r: the table's row, Carry kept. -/
theorem flag_setFlags_inc8 (t : State) (v : Byte) (fl : Flag) :
    (t.setFlags (flagsZNH (inc8 v))).flag fl = flagAfterInc t v fl := by
  cases fl <;> simp only [State.setFlags, flagsZNH, List.foldl, flag_setFlag_same, flag_setFlag_other, inc8_h, ne_eq,
    reduceCtorEq, not_false_eq_true] <;> rfl

/-- The flags after the writes of a rotate through Carry: the table's row. -/
theorem flag_setFlags_rl9 (t : State) (v : Byte) (fl : Flag) :
    (t.setFlags (flagsZNHC (rl9 v (t.flag .c)))).flag fl = flagAfterRotate t v fl := by
  cases fl <;> simp only [State.setFlags, flagsZNHC, List.foldl, flag_setFlag_same, flag_setFlag_other, rl9_z, ne_eq,
    reduceCtorEq, not_false_eq_true] <;> rfl

/-- The flags after the writes of BIT 7,H: the table's row, Carry kept. -/
theorem flag_setFlags_bit7 (t : State) (fl : Flag) :
    (t.setFlags (flagsZNH (bit7 t.h))).flag fl = flagAfter t fl .bit7H := by
  cases fl <;> simp only [State.setFlags, flagsZNH, List.foldl, flag_setFlag_same, flag_setFlag_other, ne_eq,
    reduceCtorEq, not_false_eq_true] <;> rfl

theorem flag_setFlags_xor (t : State) (fl : Flag) : (t.setFlags [(.z, true)]).flag fl = flagAfter t fl .xorA := by
  cases fl <;> simp only [State.setFlags, List.foldl, flag_setFlag_same, flag_setFlag_other, ne_eq, reduceCtorEq,
    not_false_eq_true] <;> rfl

/-- The flag writes of an instruction give every flag the table's value. -/
theorem flag_setFlags_flagWrites (s : State) (i : Instr) (fl : Flag) :
    (s.setFlags (flagWrites s i)).flag fl = flagAfter s fl i := by
  cases i with
  | xorA => exact flag_setFlags_xor s fl
  | incB | incC | incD | incE | incH | incL | incA => exact flag_setFlags_inc8 s _ fl
  | rla | rlB | rlC | rlD | rlE | rlH | rlL | rlA => exact flag_setFlags_rl9 s _ fl
  | bit7H => exact flag_setFlags_bit7 s fl
  | _ => rfl

/-- Flag writes depend on nothing but F. -/
theorem f_setFlags_congr {s t : State} (hf : t.f = s.f) (ws : List (Flag × Bool)) : (t.setFlags ws).f = (s.setFlags ws).f :=
  List.foldl_rel (r := fun t s : State => t.f = s.f) hf fun w _ t s h => by rw [setFlag_f, setFlag_f, h]

/-- Settles O43: the flag writes start from the old F, which no register write of an instruction touches. -/
theorem flagsAfterInstruction : Obligations.FlagsAfterInstruction := by
  intro i s t h
  rw [eq_apply_of_exec h]
  have hregs := f_notMem_effect_regs s i
  refine ⟨fun fl => ?_, lowBits_apply s _ hregs⟩
  have hf : (s.apply (effect s i)).f = (s.setFlags (flagWrites s i)).f :=
    f_setFlags_congr (f_writeRegs_writeBytes s (effect s i) hregs) _
  rw [flag_congr hf, flag_setFlags_flagWrites]

/-! ## The operand registers an instruction writes -/

/-- Settles O45: the registers of an effect are the table's. -/
theorem registersWrittenOnlyWhereListed : Obligations.RegistersWrittenOnlyWhereListed := by
  intro i s t r h hf hr
  rw [eq_apply_of_exec h]
  exact readReg_apply_other s (effect s i) hf (regWrites_regs s i ▸ hr)

/-! ## What an instruction reads -/

/-- `t` gives the instruction `i` the same inputs as `s`: the registers it reads (10_state.md R12), Carry and Zero where it
reads them (R16), the bytes of memory, the pc and the sp. -/
structure SameInputs (i : Instr) (s t : State) : Prop where
  regs : ∀ r ∈ readsReg i, t.readReg r = s.readReg r
  carry : isRotate i = true → t.flag .c = s.flag .c
  zero : isJump i = true → t.flag .z = s.flag .z
  read : ∀ a, t.readByte a = s.readByte a
  pc : t.pc = s.pc
  sp : t.sp = s.sp

section SameInputs

variable {i : Instr} {s t : State} (h : SameInputs i s t)
include h

theorem SameInputs.top_eq : t.top = s.top := by simp only [State.top, State.readWord, h.read, h.sp]

theorem storesOf_congr : storesOf t i = storesOf s i := by
  have hregs := h.regs
  cases i with
  | ldIndBCA | ldIndDEA | ldIndHLA | ldIndHLDecA | ldHighCA | ldhA8A =>
    simp [readsReg] at hregs
    simp [storesOf, State.pairAddr, State.highPageRegAddr, hregs]
  | pushBC | pushDE | pushHL =>
    simp [readsReg] at hregs
    simp [storesOf, h.sp, hregs]
  | callA16 => simp only [storesOf, h.sp, h.pc]
  | _ => rfl

theorem regWrites_congr : regWrites t i = regWrites s i := by
  have hregs := h.regs
  cases i with
  | ldIndHLDecA | ldAIndBC | ldAIndDE | ldAIndHL =>
    simp [readsReg] at hregs
    simp [regWrites, State.pairAddr, h.read, hregs]
  | incB | incC | incD | incE | incH | incL | incA =>
    simp [readsReg] at hregs
    simp [regWrites, hregs]
  | rla | rlB | rlC | rlD | rlE | rlH | rlL | rlA =>
    simp [readsReg] at hregs
    simp [regWrites, h.carry rfl, hregs]
  | popBC | popDE | popHL => simp only [regWrites, h.top_eq]
  | _ => rfl

theorem flagWrites_congr : flagWrites t i = flagWrites s i := by
  have hregs := h.regs
  cases i with
  | incB | incC | incD | incE | incH | incL | incA | bit7H =>
    simp [readsReg] at hregs
    simp [flagWrites, hregs]
  | rla | rlB | rlC | rlD | rlE | rlH | rlL | rlA =>
    simp [readsReg] at hregs
    simp [flagWrites, h.carry rfl, hregs]
  | _ => rfl

theorem spAfter_congr : spAfter t i = spAfter s i := by
  cases i <;> simp only [spAfter, h.sp]

/-- The Zero flag as the tables write it. -/
theorem SameInputs.bit7_eq (hj : isJump i = true) : t.f.getLsbD 7 = s.f.getLsbD 7 := h.zero hj

theorem pcAfter_congr : pcAfter t i = pcAfter s i := by
  cases i with
  | jrNZ off => simp only [pcAfter, h.pc, SameInputs.bit7_eq h rfl]
  | _ => simp only [pcAfter, h.pc]

theorem costOf_congr : costOf t i = costOf s i := by
  cases i with
  | jrNZ off => simp only [costOf, SameInputs.bit7_eq h rfl]
  | _ => rfl

/-- The effect of an instruction is a function of its inputs. -/
theorem effect_congr : effect t i = effect s i := by
  simp only [effect, storesOf_congr h, regWrites_congr h, flagWrites_congr h, spAfter_congr h, pcAfter_congr h,
    costOf_congr h]

end SameInputs

/-! ## F as an input -/

/-- Equal but for F. -/
def EqButF (s t : State) : Prop := ∃ g : Byte, t = { s with f := g }

theorem writeByte_withF (s : State) (g : Byte) (a : Word) (v : Byte) :
    ({ s with f := g } : State).writeByte a v = { s.writeByte a v with f := g } := by
  rcases writeByte_cases s a v with ⟨hh, he⟩ | ⟨hw, he⟩ | ⟨hh, hw, he⟩ <;> rw [he]
  · rw [writeByte_highRam _ v hh]
  · rw [writeByte_window _ v hw]
  · rw [writeByte_dropped _ v hh hw]

theorem EqButF.writeByte {s t : State} (h : EqButF s t) (a : Word) (v : Byte) :
    EqButF (s.writeByte a v) (t.writeByte a v) := by
  obtain ⟨g, rfl⟩ := h
  exact ⟨g, writeByte_withF s g a v⟩

theorem EqButF.writeReg {s t : State} (h : EqButF s t) (r : Reg) (v : Byte) :
    EqButF (s.writeReg r v) (t.writeReg r v) := by
  obtain ⟨g, rfl⟩ := h
  cases r <;> exact ⟨_, rfl⟩

theorem EqButF.setFlag {s t : State} (h : EqButF s t) (fl : Flag) (v : Bool) :
    EqButF (s.setFlag fl v) (t.setFlag fl v) := by
  obtain ⟨g, rfl⟩ := h
  exact ⟨_, rfl⟩

/-- One effect on two states equal but for F. -/
theorem EqButF.apply {s t : State} (h : EqButF s t) (e : Effect) : EqButF (s.apply e) (t.apply e) := by
  have hstores := List.foldl_rel (l := e.stores) h fun w _ _ _ h => h.writeByte w.1 w.2
  have hregs := List.foldl_rel (l := e.regs) hstores fun w _ _ _ h => h.writeReg w.1 w.2
  obtain ⟨g, hflags⟩ := List.foldl_rel (l := e.flags) hregs fun w _ _ _ h => h.setFlag w.1 w.2
  exact ⟨g, congrArg (fun u : State => { u with sp := e.sp, pc := e.pc, cyc := e.cyc }) hflags⟩

theorem readReg_withF (s : State) (g : Byte) {r : Reg} (hr : r ≠ .f) : ({ s with f := g } : State).readReg r = s.readReg r := by
  cases r with
  | f => exact absurd rfl hr
  | _ => rfl

/-- Settles O44: F is an input through Zero and Carry alone, and no other state depends on it. -/
theorem flagsReadOnlyWhereListed : Obligations.FlagsReadOnlyWhereListed := by
  intro i s g hzero hcarry
  have hin : SameInputs i s { s with f := g } :=
    { regs := fun r hr => readReg_withF s g fun heq => f_notMem_readsReg i (heq ▸ hr)
      carry := hcarry
      zero := hzero
      read := fun _ => rfl
      pc := rfl
      sp := rfl }
  rw [exec_eq_apply, exec_eq_apply, effect_congr hin]
  obtain ⟨g', heq⟩ := EqButF.apply ⟨g, rfl⟩ (effect s i)
  rw [heq]
  rfl

/-! ## An operand register as an input -/

theorem writeReg_writeReg_same (s : State) (r : Reg) (v v' : Byte) : (s.writeReg r v).writeReg r v' = s.writeReg r v' := by
  cases r <;> rfl

theorem writeReg_comm (s : State) {r r' : Reg} (h : r' ≠ r) (v v' : Byte) :
    (s.writeReg r v).writeReg r' v' = (s.writeReg r' v').writeReg r v := by
  cases r <;> cases r' <;> first | rfl | exact absurd rfl h

theorem writeByte_writeReg (s : State) (r : Reg) (v : Byte) (a : Word) (v' : Byte) :
    (s.writeReg r v).writeByte a v' = (s.writeByte a v').writeReg r v := by
  rcases writeByte_cases s a v' with ⟨hh, he⟩ | ⟨hw, he⟩ | ⟨hh, hw, he⟩ <;> rw [he]
  · rw [writeByte_highRam _ v' hh]
    cases r <;> rfl
  · rw [writeByte_window _ v' hw]
    cases r <;> rfl
  · rw [writeByte_dropped _ v' hh hw]

theorem setFlag_writeReg (s : State) {r : Reg} (h : r ≠ .f) (v : Byte) (fl : Flag) (v' : Bool) :
    (s.writeReg r v).setFlag fl v' = (s.setFlag fl v').writeReg r v := by
  cases r with
  | f => exact absurd rfl h
  | _ => rfl

/-- A register write before a list of register writes that do not write the register. -/
theorem writeRegs_writeReg_of_notMem (s : State) {r : Reg} (v : Byte) {ws : List (Reg × Byte)} (h : r ∉ ws.map Prod.fst) :
    (s.writeReg r v).writeRegs ws = (s.writeRegs ws).writeReg r v :=
  List.foldl_rel (r := fun t s : State => t = s.writeReg r v) rfl fun w hw t s ht => by
    have hne : w.1 ≠ r := fun heq => h (heq ▸ List.mem_map_of_mem hw)
    rw [ht, writeReg_comm s hne]

/-- A register write before a list of register writes that writes the register again. -/
theorem writeRegs_writeReg_of_mem (s : State) {r : Reg} (v : Byte) {ws : List (Reg × Byte)} (h : r ∈ ws.map Prod.fst) :
    (s.writeReg r v).writeRegs ws = s.writeRegs ws := by
  induction ws generalizing s with
  | nil => cases h
  | cons w ws ih =>
    change ((s.writeReg r v).writeReg w.1 w.2).writeRegs ws = (s.writeReg w.1 w.2).writeRegs ws
    by_cases heq : w.1 = r
    · rw [heq, writeReg_writeReg_same]
    · have hmem : r ∈ ws.map Prod.fst := by
        rcases List.mem_cons.mp h with h' | h'
        · exact absurd h'.symm heq
        · exact h'
      rw [writeReg_comm s heq, ih _ hmem]

theorem writeBytes_writeReg (s : State) (r : Reg) (v : Byte) (ws : List (Word × Byte)) :
    (s.writeReg r v).writeBytes ws = (s.writeBytes ws).writeReg r v :=
  List.foldl_hom (fun t : State => t.writeReg r v) fun t w => writeByte_writeReg t r v w.1 w.2

theorem setFlags_writeReg (s : State) {r : Reg} (h : r ≠ .f) (v : Byte) (ws : List (Flag × Bool)) :
    (s.writeReg r v).setFlags ws = (s.setFlags ws).writeReg r v :=
  List.foldl_hom (fun t : State => t.writeReg r v) fun t w => setFlag_writeReg t h v w.1 w.2

/-- An effect overwrites what a register it writes held before. -/
theorem apply_writeReg_of_mem (s : State) {r : Reg} (v : Byte) {e : Effect} (h : r ∈ e.regs.map Prod.fst) :
    (s.writeReg r v).apply e = s.apply e := by
  simp only [State.apply, writeBytes_writeReg, writeRegs_writeReg_of_mem _ v h]

/-- An effect passes by a register it does not write. -/
theorem apply_writeReg_of_notMem (s : State) {r : Reg} (hf : r ≠ .f) (v : Byte) {e : Effect}
    (h : r ∉ e.regs.map Prod.fst) : (s.writeReg r v).apply e = (s.apply e).writeReg r v := by
  rw [State.apply, writeBytes_writeReg, writeRegs_writeReg_of_notMem _ v h, setFlags_writeReg _ hf]
  cases r <;> rfl

theorem sameInputs_writeReg {i : Instr} (s : State) {r : Reg} (v : Byte) (hf : r ≠ .f) (h : r ∉ readsReg i) :
    SameInputs i s (s.writeReg r v) where
  regs := fun _ hr' => readReg_writeReg_other s v fun heq => h (heq ▸ hr')
  carry := fun _ => flag_congr (f_writeReg_operand s v hf) .c
  zero := fun _ => flag_congr (f_writeReg_operand s v hf) .z
  read := readByte_writeReg s r v
  pc := writeReg_pc s r v
  sp := writeReg_sp s r v

/-- Settles O46: a register not read is no input, and the effect overwrites it or passes it by. -/
theorem registersReadOnlyWhereListed : Obligations.RegistersReadOnlyWhereListed := by
  intro i s r v hf hr
  rw [exec_eq_apply, exec_eq_apply, effect_congr (sameInputs_writeReg s v hf hr)]
  have hregs : (effect s i).regs.map Prod.fst = writesReg i := regWrites_regs s i
  refine ⟨fun hw => ?_, fun hw => ?_⟩
  · rw [apply_writeReg_of_mem s v (hregs ▸ hw)]
  · rw [apply_writeReg_of_notMem s hf v (hregs ▸ hw)]
    rfl

end Sys2Proof.Machine
end

section
/-! PROOFS. The address/word library and the address map (20_memory.md R40 to R58): what the two additions and the word of two
bytes are as numbers, what a read gives in each row of the map, and what a read gives after a write. -/

namespace Sys2Proof.Machine

open Sys2Proof.Claims

/-! ## The address/word library -/

/-- An offset byte as a two's-complement number modulo 65536. -/
theorem toNat_signExtend_byte (offset : Byte) :
    (offset.signExtend 16).toNat = if 0x80 ≤ offset.toNat then 65536 - (256 - offset.toNat) else offset.toNat := by
  have hlt := offset.isLt
  have hmsb := BitVec.msb_eq_decide offset
  rw [BitVec.toNat_signExtend, BitVec.toNat_setWidth, hmsb]
  by_cases hneg : 0x80 ≤ offset.toNat <;> simp [hneg] <;> omega

/-- Settles O1: below 0x80 the offset is itself, from 0x80 on it is 256 less. -/
theorem signedOffsetAdditionWraps : Obligations.SignedOffsetAdditionWraps := by
  refine ⟨fun base offset => ⟨fun hpos => ?_, fun hneg => ?_⟩, by decide, by decide, by decide⟩
  · rw [addSignedOffset, BitVec.toNat_add, toNat_signExtend_byte, if_neg (by omega)]
  · rw [addSignedOffset, BitVec.toNat_add, toNat_signExtend_byte, if_pos hneg]
    omega

theorem toNat_addUnsignedOffset (base : Word) (offset : Byte) :
    (addUnsignedOffset base offset).toNat = (base.toNat + offset.toNat) % 65536 := by
  have hlt := offset.isLt
  rw [addUnsignedOffset, BitVec.toNat_add, BitVec.toNat_setWidth, Nat.mod_eq_of_lt (a := offset.toNat) (by omega)]

theorem toNat_wordFromBytes (low high : Byte) : (wordFromBytes low high).toNat = 256 * high.toNat + low.toNat := by
  rw [wordFromBytes, BitVec.toNat_append, ← Nat.shiftLeft_add_eq_or_of_lt low.isLt, Nat.shiftLeft_eq, Nat.mul_comm]

theorem toNat_highByte (w : Word) : (highByte w).toNat = w.toNat / 256 := by
  have hlt := w.isLt
  rw [highByte, BitVec.extractLsb'_toNat, Nat.shiftRight_eq_div_pow]
  omega

theorem toNat_lowByte (w : Word) : (lowByte w).toNat = w.toNat % 256 := BitVec.extractLsb'_toNat 0 8 w

/-- Settles O2: the high page starts at a multiple of 256, so the offset is the sum's low byte. -/
theorem unsignedOffsetAdditionWraps : Obligations.UnsignedOffsetAdditionWraps := by
  refine ⟨toNat_addUnsignedOffset, fun offset => BitVec.eq_of_toNat_eq ?_, by decide, by decide, by decide⟩
  have hlt := offset.isLt
  calc (addUnsignedOffset 0xFF00 offset).toNat
      = (0xFF00 + offset.toNat) % 65536 := toNat_addUnsignedOffset 0xFF00 offset
    _ = 256 * 0xFF + offset.toNat := by omega
    _ = ((0xFF : Byte) ++ offset).toNat := (toNat_wordFromBytes offset 0xFF).symm

/-- The parts of a word make the word again (20_memory.md R43). -/
theorem wordFromBytes_lowByte_highByte (w : Word) : wordFromBytes (lowByte w) (highByte w) = w := by
  apply BitVec.eq_of_toNat_eq
  rw [toNat_wordFromBytes, toNat_lowByte, toNat_highByte]
  omega

/-- Settles O3: quotient and remainder by 256, one way and back. -/
theorem wordAndBytesRoundTrip : Obligations.WordAndBytesRoundTrip :=
  ⟨toNat_wordFromBytes, fun w => ⟨toNat_highByte w, toNat_lowByte w⟩, wordFromBytes_lowByte_highByte,
    fun _ _ => Prod.ext BitVec.extractLsb'_append_eq_left BitVec.extractLsb'_append_eq_right⟩

/-! ## Region dispatch -/

/-- Settles O4: in each line of the dispatch the earlier lines have failed, which is the lower end of the region's range. -/
theorem regionDispatchByAddress : Obligations.RegionDispatchByAddress := by
  intro m a
  have hlt := a.isLt
  unfold region
  by_cases hboot : a.toNat ≤ 0x00FF ∧ m = true
  · have ha := hboot.1
    simp only [hboot, and_self, if_true, reduceCtorEq, false_iff, true_and, not_true_eq_false, and_false]
    omega
  · simp only [hboot, if_false, not_false_eq_true, and_true]
    split_ifs <;> simp only [true_iff, false_iff, true_and] <;> omega

/-- Settles O6: every region lies inside its array. -/
theorem indexWithinArray : Obligations.IndexWithinArray := by
  intro m a
  obtain ⟨hboot, hbank0, hbank1, -, -, hhram, -⟩ := regionDispatchByAddress m a
  refine ⟨fun h => (hboot.mp h).1, fun h => (hbank0.mp h).1, hbank1.mp, fun h => ?_⟩
  obtain ⟨hlo, hhi⟩ := hhram.mp h
  omega

/-! ## What a read gives -/

/-- Cartridge ROM is read at its two banks' addresses, where the boot ROM does not shadow it (20_memory.md R45). -/
theorem readByte_cart {s : State} {a : Word} (ha : a.toNat ≤ 0x7FFF) (hb : ¬(a.toNat ≤ 0x00FF ∧ s.bootMapped = true)) :
    s.readByte a = cartByte s a := by
  obtain ⟨-, hbank0, hbank1, -⟩ := regionDispatchByAddress s.bootMapped a
  have hbacking : (s.regionOf a).backing = some .cart := by
    rw [State.regionOf]
    by_cases hlow : a.toNat ≤ 0x3FFF
    · rw [hbank0.mpr ⟨hlow, hb⟩]; rfl
    · rw [hbank1.mpr ⟨by omega, ha⟩]; rfl
  simp only [State.readByte, hbacking]
  rfl

/-- The windows and the unmapped addresses read as zero (20_memory.md R51 to R53). -/
theorem readByte_zero (s : State) {a : Word} (ha : 0x8000 ≤ a.toNat) (hh : ¬InHighRam a) : s.readByte a = 0 := by
  have hbacking : (s.regionOf a).backing = none := by
    obtain ⟨hboot, hbank0, hbank1, -, -, hhram, -⟩ := regionDispatchByAddress s.bootMapped a
    unfold State.regionOf
    cases hr : region s.bootMapped a with
    | boot => have := hboot.mp hr; omega
    | bank0 => have := hbank0.mp hr; omega
    | bank1 => have := hbank1.mp hr; omega
    | hram => exact absurd (hhram.mp hr) hh
    | vram | io | unmapped => rfl
  simp only [State.readByte, hbacking]

theorem readByte_window (s : State) {a : Word} (h : InWindow a) : s.readByte a = 0 := by
  have hh : ¬InHighRam a := fun hh => not_window_of_highRam hh h
  exact readByte_zero s (by unfold InWindow at h; omega) hh

/-! ## What a read gives after a write -/

theorem readByte_writeByte_same (s : State) {a : Word} (v : Byte) (h : InHighRam a) : (s.writeByte a v).readByte a = v := by
  rw [readByte_highRam _ h, writeByte_highRam s v h]
  exact memGet_memPut_same .hram s.hram a.toNat v

/-- A write that does not reach high RAM changes no array. -/
theorem readByte_writeByte_of_not_highRam (s : State) {a : Word} (a' : Word) (v : Byte) (h : ¬InHighRam a) :
    (s.writeByte a v).readByte a' = s.readByte a' := by
  rcases writeByte_cases s a v with ⟨hh, -⟩ | ⟨-, he⟩ | ⟨-, -, he⟩
  · exact absurd hh h
  · rw [he]; rfl
  · rw [he]

/-- High RAM is all that a write can change (20_memory.md R53). -/
theorem readByte_writeByte_outside (s : State) (a : Word) {a' : Word} (v : Byte) (h : ¬InHighRam a') :
    (s.writeByte a v).readByte a' = s.readByte a' := by
  by_cases ha : InHighRam a
  · rw [writeByte_highRam s v ha, readByte_outside s _ h]
  · exact readByte_writeByte_of_not_highRam s a' v ha

theorem readByte_writeByte_other (s : State) {a a' : Word} (v : Byte) (h : a' ≠ a) :
    (s.writeByte a v).readByte a' = s.readByte a' := by
  by_cases ha : InHighRam a
  · by_cases ha' : InHighRam a'
    · have hne : a'.toNat ≠ a.toNat := fun heq => h (BitVec.eq_of_toNat_eq heq)
      rw [readByte_highRam _ ha', readByte_highRam s ha', writeByte_highRam s v ha, memGet_memPut_other .hram s.hram v hne]
    · exact readByte_writeByte_outside s a v ha'
  · exact readByte_writeByte_of_not_highRam s a' v ha

/-- Settles O7: the three cases of a read after a write, each by the array's own read after write or by the write's reach. -/
theorem readAfterWrite : Obligations.ReadAfterWrite := fun s _ a' v =>
  ⟨readByte_writeByte_same s v, readByte_writeByte_other s v, readByte_writeByte_of_not_highRam s a' v⟩

/-! ## The nine rows of the address map -/

/-- The rows of the map partition the address space, for either value of the boot flag (20_memory.md R45). -/
theorem count_mapRows (m : Bool) (a : Word) : (mapRows m a).count true = 1 := by
  have hlt := a.isLt
  have hrow : a.toNat ≤ 0x00FF ∨ (0x0100 ≤ a.toNat ∧ a.toNat ≤ 0x3FFF) ∨ (0x4000 ≤ a.toNat ∧ a.toNat ≤ 0x7FFF) ∨
      (0x8000 ≤ a.toNat ∧ a.toNat ≤ 0x9FFF) ∨ (0xA000 ≤ a.toNat ∧ a.toNat ≤ 0xFEFF) ∨
      (0xFF00 ≤ a.toNat ∧ a.toNat ≤ 0xFF7F) ∨ (0xFF80 ≤ a.toNat ∧ a.toNat ≤ 0xFFFE) ∨ a.toNat = 0xFFFF := by omega
  rcases hrow with h | h | h | h | h | h | h | h <;>
    simp (disch := omega) only [mapRows, decide_eq_true, decide_eq_false] <;> cases m <;> rfl

/-- ROM takes no write and traces none (20_memory.md R50). -/
theorem writeByte_rom (s : State) {a : Word} (v : Byte) (ha : a.toNat ≤ 0x7FFF) : s.writeByte a v = s :=
  writeByte_dropped s v (by unfold InHighRam; omega) (by unfold InWindow; omega)

/-- Settles O5: a read by what lies behind the row, a write by whether it stores, traces or is dropped. -/
theorem addressMapRows : Obligations.AddressMapRows := by
  intro s a v
  refine ⟨count_mapRows s.bootMapped a, ?boot, ?shadowed, ?rom, ?vram, ?gap, ?io, ?hram, ?top⟩
  case boot =>
    rintro ⟨ha, hm⟩
    exact ⟨readByte_bootMapped hm ha, writeByte_rom s v (by omega)⟩
  case shadowed =>
    rintro ⟨ha, hm⟩
    exact ⟨readByte_cart (by omega) (by simp [hm]), writeByte_rom s v (by omega)⟩
  case rom =>
    rintro ⟨hlo, hhi⟩
    exact ⟨readByte_cart hhi (by omega), writeByte_rom s v hhi⟩
  case vram => exact fun ha => ⟨readByte_window s (.inl ha), writeByte_window s v (.inl ha)⟩
  case gap =>
    rintro ⟨hlo, hhi⟩
    have hh : ¬InHighRam a := by unfold InHighRam; omega
    exact ⟨readByte_zero s (by omega) hh, writeByte_dropped s v hh (by unfold InWindow; omega)⟩
  case io => exact fun ha => ⟨readByte_window s (.inr ha), writeByte_window s v (.inr ha)⟩
  case hram =>
    intro ha
    have hread := readByte_writeByte_same s v ha
    rw [readByte_highRam _ ha] at hread
    refine ⟨readByte_highRam s ha, hread, ?_⟩
    rw [writeByte_highRam s v ha]
  case top =>
    intro ha
    have hh : ¬InHighRam a := by unfold InHighRam; omega
    exact ⟨readByte_zero s (by omega) hh, writeByte_dropped s v hh (by unfold InWindow; omega)⟩

/-! ## The boot ROM shadow -/

/-- Above the boot ROM the boot flag plays no part in the dispatch. -/
theorem region_above_boot (m m' : Bool) {a : Word} (ha : 0x0100 ≤ a.toNat) : region m a = region m' a := by
  simp only [region, show ¬a.toNat ≤ 0x00FF by omega, false_and, if_false]

/-- Settles O8: the boot flag decides between the two images, below 0x0100 alone. -/
theorem bootRomShadowsBankZero : Obligations.BootRomShadowsBankZero := by
  intro s a
  refine ⟨fun ha hm => readByte_bootMapped hm ha, fun ha => readByte_cart (by omega) (by simp), fun ha => ?_⟩
  have hregion : s.unmapBootRom.regionOf a = s.regionOf a := region_above_boot false s.bootMapped ha
  rw [State.readByte, State.readByte, hregion]
  rfl

/-! ## Words in memory -/

/-- Settles O9: the second address wraps from 0xFFFF to 0x0000. -/
theorem wordReadLittleEndian : Obligations.WordReadLittleEndian := fun s _ =>
  ⟨rfl, toNat_wordFromBytes (s.readByte 0xFFFF) (s.readByte 0x0000)⟩

/-- Settles O10: the second address wraps from 0x0000 to 0xFFFF. -/
theorem wordWriteDescending : Obligations.WordWriteDescending := fun _ _ _ => ⟨rfl, rfl⟩

/-- Settles O11: the later write, of the low byte, passes by the high byte's address. -/
theorem wordWrittenReadsBackBelow : Obligations.WordWrittenReadsBackBelow := by
  intro s a v
  refine ⟨fun ha hb => ?_, fun a' ha hb => ?_⟩
  · have hlow : (s.writeWordDesc a v).readByte (a - 1) = lowByte v := readByte_writeByte_same _ _ hb
    have hhigh : (s.writeWordDesc a v).readByte a = highByte v := by
      have hne : a ≠ a - 1 := by bv_omega
      rw [State.writeWordDesc, readByte_writeByte_other _ _ hne, readByte_writeByte_same s _ ha]
    rw [State.readWord, BitVec.sub_add_cancel, hlow, hhigh, wordFromBytes_lowByte_highByte]
  · rw [State.writeWordDesc, readByte_writeByte_other _ _ hb, readByte_writeByte_other s _ ha]

end Sys2Proof.Machine
end

section
/-! PROOFS. Memory over a whole instruction and a step (20_memory.md R53, R62, R66): what is stored, what stays, and what the next
fetch sees of it. -/

namespace Sys2Proof.Machine

open Sys2Proof.Claims

/-! ## Every instruction completes -/

/-- Settles O39: an effect is a next state, and so is the decode fault. -/
theorem everyInstructionCompletes : Obligations.EveryInstructionCompletes := by
  refine ⟨fun i s => ⟨_, exec_eq_apply i s⟩, fun s hs => ?_⟩
  rcases step_cases s with ⟨i, -, -, he⟩ | ⟨u, -, -, he⟩ | ⟨r, hr, -⟩
  · exact ⟨_, he.trans (exec_eq_apply i s)⟩
  · exact ⟨_, he⟩
  · rw [hs] at hr
    cases hr

/-! ## Reads after the byte writes of an effect -/

/-- Of an effect a read sees the byte writes alone. -/
@[simp] theorem readByte_apply (s : State) (e : Effect) (a : Word) :
    (s.apply e).readByte a = (s.writeBytes e.stores).readByte a :=
  apply_keeps_writeBytes (State.readByte · a) s e (fun t v r _ => readByte_writeReg t r v a)
    (fun t fl v => readByte_setFlag t fl v a) fun _ _ _ _ => rfl

theorem readByte_writeBytes_other (s : State) {ws : List (Word × Byte)} {a : Word} (h : a ∉ ws.map Prod.fst) :
    (s.writeBytes ws).readByte a = s.readByte a :=
  List.foldlRecOn (motive := fun t : State => t.readByte a = s.readByte a) ws _ rfl fun t ht w hw =>
    (readByte_writeByte_other t w.2 fun heq => h (List.mem_map.mpr ⟨w, hw, heq.symm⟩)).trans ht

theorem readByte_writeBytes_outside (s : State) (ws : List (Word × Byte)) {a : Word} (h : ¬InHighRam a) :
    (s.writeBytes ws).readByte a = s.readByte a :=
  writeBytes_keeps (State.readByte · a) (fun t a' v => readByte_writeByte_outside t a' v h) s ws

/-- Byte writes to different addresses: each byte of high RAM is read back. -/
theorem readByte_writeBytes_mem (s : State) {ws : List (Word × Byte)} (hnodup : (ws.map Prod.fst).Nodup) {w : Word × Byte}
    (hw : w ∈ ws) (hh : InHighRam w.1) : (s.writeBytes ws).readByte w.1 = w.2 := by
  induction ws generalizing s with
  | nil => cases hw
  | cons w' ws ih =>
    obtain ⟨hfresh, hnodup⟩ := List.nodup_cons.mp hnodup
    rcases List.mem_cons.mp hw with rfl | hw
    · exact (readByte_writeBytes_other _ hfresh).trans (readByte_writeByte_same s w.2 hh)
    · exact ih (s.writeByte w'.1 w'.2) hnodup hw

/-! ## The frame -/

/-- Settles O47: an address that none of the byte writes names. -/
theorem memoryFrame : Obligations.MemoryFrame := by
  intro i s t h
  rw [eq_apply_of_exec h]
  refine ⟨fun a ha => ?_, fun hnone => ?_⟩
  · rw [readByte_apply]
    exact readByte_writeBytes_other s ha
  · have hstores : (effect s i).stores = [] := List.map_eq_nil_iff.mp hnone
    rw [apply_hram, apply_wlog, hstores]
    exact ⟨rfl, rfl⟩

/-- Settles O48: byte writes reach high RAM alone, and the decode fault writes none. -/
theorem onlyHighRamChanges : Obligations.OnlyHighRamChanges := by
  intro s t a hstep ha
  rcases step_cases s with ⟨i, -, -, he⟩ | ⟨u, -, -, he⟩ | ⟨r, -, he⟩ <;> rw [he] at hstep
  · rw [eq_apply_of_exec hstep, readByte_apply, readByte_writeBytes_outside s _ ha]
  · obtain rfl := Host.Outcome.next.inj hstep
    exact readByte_raiseDecodeFault s u a
  · cases hstep

/-! ## Stores and the next fetch -/

/-- The two bytes of a push go to different addresses (44_control_and_stack.md R191). -/
theorem storedTo_nodup (s : State) (i : Instr) : (storedTo s i).Nodup := by
  cases i with
  | ldIndBCA | ldIndDEA | ldIndHLA | ldIndHLDecA | ldHighCA | ldhA8A => exact List.nodup_singleton _
  | pushBC | pushDE | pushHL | callA16 =>
    have hne : s.sp - 1 ≠ s.sp - 2 := by bv_omega
    exact List.nodup_cons.mpr ⟨mt List.mem_singleton.mp hne, List.nodup_singleton _⟩
  | _ => exact List.nodup_nil

/-- A running machine whose bytes at the pc decode to `i` runs `i` (40_fetch_decode_execute.md R102). -/
theorem step_of_fetchDecode {s : State} {i : Instr} (hs : s.status = .running) (hd : s.fetchDecode = .ok i) :
    step s = exec i s := by
  simp only [step, hs, hd]

/-- Settles O53: no later byte write of the instruction goes to the same address, and the fetch reads at the new pc. -/
theorem storeSeenByNextFetch : Obligations.StoreSeenByNextFetch := by
  intro s t i r hs hd hstep hr hh
  rw [step_of_fetchDecode hs hd] at hstep
  obtain rfl := eq_apply_of_exec hstep
  have hread : (s.apply (effect s i)).readByte r.1 = r.2 := by
    rw [readByte_apply]
    exact readByte_writeBytes_mem s (storedTo_nodup s i) hr hh
  have hpc : (s.apply (effect s i)).pc = pcAfter s i := rfl
  have hrun : (s.apply (effect s i)).status = .running := (apply_status s _).trans hs
  refine ⟨hread, hpc, fun h0 => ?_, fun h1 => ?_, fun h2 => ?_⟩
  · rw [h0, ← hpc] at hread
    exact ⟨⟨hrun, hread⟩, by rw [State.fetchDecode, hread]⟩
  · rw [h1, ← hpc] at hread
    rw [State.fetchDecode, hread]
  · rw [h2, ← hpc] at hread
    rw [State.fetchDecode, hread]

end Sys2Proof.Machine
end

section
/-! PROOFS. Decoding and encoding (30_encoding.md R80 to R94): which bytes the two tables assign, what the three bytes of a fetch
decode to, and that the encoder and the decoder are inverse to each other. -/

namespace Sys2Proof.Machine

open Sys2Proof.Claims

/-! ## The opcode map -/

/-- Settles O17: the two tables are finite lists of bytes. -/
theorem opcodeMapWellFormed : Obligations.OpcodeMapWellFormed := by
  unfold Obligations.OpcodeMapWellFormed
  decide

theorem mem_of_lookupByte_eq_some {α : Type} {k : Byte} {x : α} {t : List (Byte × α)} (h : lookupByte k t = some x) :
    (k, x) ∈ t := by
  induction t with
  | nil => cases h
  | cons e t ih =>
    rw [lookupByte] at h
    split at h
    · next hk =>
      obtain rfl := Option.some.inj h
      exact hk ▸ List.mem_cons_self
    · exact List.mem_cons_of_mem e (ih h)

theorem lookupByte_eq_none_iff {α : Type} (k : Byte) (t : List (Byte × α)) :
    lookupByte k t = none ↔ k ∉ t.map Prod.fst := by
  induction t with
  | nil => simp [lookupByte]
  | cons e t ih => by_cases hk : k = e.1 <;> simp [lookupByte, hk, ih]

/-! ## What three bytes decode to -/

/-- The extension byte is no row (30_encoding.md R85), so a row of the Normal table decides by itself. -/
theorem decodeBytes_of_normal {b0 : Byte} {r : Row} (hr : lookupByte b0 normalTable = some r) (b1 b2 : Byte) :
    decodeBytes b0 b1 b2 = .ok (r.build b1 b2) := by
  have hx : b0 ≠ extensionByte := by
    rintro rfl
    cases hr
  simp only [decodeBytes, decodeWith, opmap, if_neg hx, hr]

/-- The rows of the two tables are all there is to decode (40_fetch_decode_execute.md R102). -/
theorem mem_table_of_decodeBytes {b0 b1 b2 : Byte} {i : Instr} (h : decodeBytes b0 b1 b2 = .ok i) :
    (b0 = extensionByte ∧ (b1, i) ∈ extendedTable) ∨ ∃ r, (b0, r) ∈ normalTable ∧ i = r.build b1 b2 := by
  simp only [decodeBytes, decodeWith, opmap] at h
  split at h
  · next hx =>
    split at h
    · next j hj =>
      obtain rfl := Except.ok.inj h
      exact .inl ⟨hx, mem_of_lookupByte_eq_some hj⟩
    · cases h
  · split at h
    · next r hr => exact .inr ⟨r, mem_of_lookupByte_eq_some hr, (Except.ok.inj h).symm⟩
    · cases h

theorem decodeBytes_eq_normal_error_iff {b0 : Byte} (hx : b0 ≠ extensionByte) (b1 b2 : Byte) :
    decodeBytes b0 b1 b2 = .error { table := .normal, byte := b0 } ↔ b0 ∉ normalTable.map Prod.fst := by
  rw [← lookupByte_eq_none_iff]
  simp only [decodeBytes, decodeWith, opmap, if_neg hx]
  cases lookupByte b0 normalTable <;> simp

theorem decodeBytes_eq_extended_error_iff (b1 b2 : Byte) :
    decodeBytes extensionByte b1 b2 = .error { table := .extended, byte := b1 } ↔ b1 ∉ extendedTable.map Prod.fst := by
  rw [← lookupByte_eq_none_iff]
  simp only [decodeBytes, decodeWith, opmap, if_true]
  cases lookupByte b1 extendedTable <;> simp

/-! ## Unassigned bytes -/

/-- R88 over all 256 bytes; 0xCB is neither a row nor listed (30_encoding.md R85). -/
theorem notMem_normalTable_iff :
    ∀ {b : Byte}, b ≠ extensionByte → (b ∉ normalTable.map Prod.fst ↔ inRanges b unassignedNormal) := by
  unfold inRanges
  decide

/-- R89 over all 256 bytes. -/
theorem notMem_extendedTable_iff : ∀ b : Byte, b ∉ extendedTable.map Prod.fst ↔ inRanges b unassignedExtended := by
  unfold inRanges
  decide

/-- Settles O16: a byte is refused where the table has no row for it, and the listed ranges are the gaps of the table. -/
theorem unassignedBytesAreTheListed : Obligations.UnassignedBytesAreTheListed := fun _ b1 b2 =>
  ⟨fun hx => (decodeBytes_eq_normal_error_iff hx b1 b2).trans (notMem_normalTable_iff hx),
    (decodeBytes_eq_extended_error_iff b1 b2).trans (notMem_extendedTable_iff b1)⟩

/-! ## Bytes that decode are the bytes of the encoding -/

theorem instr_length_pos (i : Instr) : 0 < i.length := by cases i <;> exact Nat.succ_pos _

theorem encode_length (i : Instr) : (encode i).length = i.length := by cases i <;> rfl

theorem lowByte_wordFromBytes (low high : Byte) : lowByte (wordFromBytes low high) = low :=
  BitVec.extractLsb'_append_eq_right

theorem highByte_wordFromBytes (low high : Byte) : highByte (wordFromBytes low high) = high :=
  BitVec.extractLsb'_append_eq_left

theorem encode_of_mem_extendedTable : ∀ e ∈ extendedTable, encode e.2 = [extensionByte, e.1] := by decide

/-- The encoder writes a row's instruction as the opcode byte `b0`, then the operand, a word low byte first
(30_encoding.md R81, R82). -/
def EncodesRow (b0 : Byte) : Row → Prop
  | .bare i => encode i = [b0]
  | .withByte mk => ∀ v, encode (mk v) = [b0, v]
  | .withWord mk => ∀ w, encode (mk w) = [b0, lowByte w, highByte w]

theorem encodesRow_of_mem_normalTable : ∀ e ∈ normalTable, EncodesRow e.1 e.2 := by
  rw [← List.forall_iff_forall_mem]
  simp only [normalTable, List.cons_append, List.nil_append, List.Forall, EncodesRow]
  and_intros <;> intros <;> rfl

theorem encode_build_prefix {b0 : Byte} {r : Row} (h : EncodesRow b0 r) (b1 b2 : Byte) :
    encode (r.build b1 b2) <+: [b0, b1, b2] := by
  cases r with
  | bare i => exact ⟨[b1, b2], by rw [Row.build, h]; rfl⟩
  | withByte mk => exact ⟨[b2], by rw [Row.build, h]; rfl⟩
  | withWord mk => exact ⟨[], by rw [Row.build, h, lowByte_wordFromBytes, highByte_wordFromBytes]; rfl⟩

theorem encode_prefix_of_decodeBytes {b0 b1 b2 : Byte} {i : Instr} (h : decodeBytes b0 b1 b2 = .ok i) :
    encode i <+: [b0, b1, b2] := by
  obtain ⟨rfl, hi⟩ | ⟨r, hr, rfl⟩ := mem_table_of_decodeBytes h
  · exact ⟨[b2], by rw [encode_of_mem_extendedTable _ hi]; rfl⟩
  · exact encode_build_prefix (encodesRow_of_mem_normalTable _ hr) b1 b2

/-- Settles O14: the encoding is the first bytes of the three, as many as its length. -/
theorem encodeOfDecode : Obligations.EncodeOfDecode := by
  intro b0 b1 b2 i h
  rw [← encode_length]
  exact (List.prefix_iff_eq_take.mp (encode_prefix_of_decodeBytes h)).symm

/-! ## The encoding decodes -/

/-- An operand word in the two bytes after the opcode, low byte first (30_encoding.md R82). -/
theorem decodeBytes_word {b0 : Byte} {mk : Word → Instr} (hr : lookupByte b0 normalTable = some (.withWord mk)) (w : Word) :
    decodeBytes b0 (lowByte w) (highByte w) = .ok (mk w) := by
  rw [decodeBytes_of_normal hr, Row.build, wordFromBytes_lowByte_highByte]

/-- An instruction's own bytes select it: what the following bytes put at `pc + 1` and `pc + 2` plays no part. -/
theorem decodeBytes_encode_append (i : Instr) (rest : List Byte) :
    decodeBytes ((encode i ++ rest).headD 0) ((encode i ++ rest).tail.headD 0) ((encode i ++ rest).tail.tail.headD 0) =
      .ok i := by
  cases i with
  | ldBCd16 w | ldDEd16 w | ldHLd16 w | ldSPd16 w | callA16 w => exact decodeBytes_word rfl w
  | _ => rfl

/-- A list that holds the whole instruction decodes as its first three bytes, zeros standing for those after its end. -/
theorem decode_of_decodeBytes {bs : List Byte} {i : Instr}
    (h : decodeBytes (bs.headD 0) (bs.tail.headD 0) (bs.tail.tail.headD 0) = .ok i) (hlen : i.length ≤ bs.length) :
    decode bs = .ok (i, bs.drop i.length) := by
  cases bs with
  | nil => exact absurd (instr_length_pos i) (Nat.not_lt.mpr hlen)
  | cons b0 rest =>
    have hne : ¬(b0 = extensionByte ∧ rest = []) := by
      rintro ⟨rfl, rfl⟩
      cases h
    rw [decode, if_neg hne, show decodeBytes b0 (rest.headD 0) (rest.tail.headD 0) = .ok i from h,
      List.drop_cons (instr_length_pos i)]
    exact if_pos hlen

/-- Settles O13: the encoder's bytes select the instruction, and its length is where they end. -/
theorem decodeOfEncode : Obligations.DecodeOfEncode := by
  intro i rest
  have hlen : i.length ≤ (encode i ++ rest).length := by simp [encode_length]
  rw [decode_of_decodeBytes (decodeBytes_encode_append i rest) hlen, ← encode_length, List.drop_left]

/-- Settles O15: each word is the encoding of its instruction, with the bytes left over after it. -/
theorem sampleWordsDecode : Obligations.SampleWordsDecode :=
  ⟨decodeOfEncode .nop [], decodeOfEncode (.ldSPd16 0xFFFE) [0x00], decodeOfEncode (.ldBCd16 0x1234) [],
    decodeOfEncode (.ldBd8 0x04) [], decodeOfEncode .ldIndDEA [], decodeOfEncode .ldIndHLDecA [], decodeOfEncode .ldAIndDE [],
    decodeOfEncode .xorA [], decodeOfEncode (.jrNZ 0xFB) [], decodeOfEncode .bit7H [], decodeOfEncode .incH [],
    decodeOfEncode .rla [], decodeOfEncode .rlC [], decodeOfEncode .pushBC [], decodeOfEncode .popBC [],
    decodeOfEncode (.callA16 0x0095) [], decodeOfEncode .ldHighCA [], decodeOfEncode (.ldhA8A 0x47) []⟩

end Sys2Proof.Machine
end

section
/-! PROOFS. The step of a running machine and the two ALU functions (40_fetch_decode_execute.md R100 to R111): an assigned opcode
runs its instruction, an unassigned byte takes the decode fault, and what `inc8` and `rl9` compute. -/

namespace Sys2Proof.Machine

open Sys2Proof.Claims

/-! ## The step of a running machine -/

/-- Settles O12: the fetch of a step is the decoding of the three bytes at the pc. -/
theorem stepRunsDecodedInstruction : Obligations.StepRunsDecodedInstruction := fun _ _ => step_of_fetchDecode

/-- A running machine whose bytes at the pc decode to nothing takes the decode fault (40_fetch_decode_execute.md R103). -/
theorem step_of_fetchDecode_error {s : State} {u : Unassigned} (hs : s.status = .running) (hd : s.fetchDecode = .error u) :
    step s = .next (s.raiseDecodeFault u) := by
  simp only [step, hs, hd]

/-- Settles O18: a listed byte is one the decoder refuses, by its table and the byte. -/
theorem unassignedByteTakesDecodeFault : Obligations.UnassignedByteTakesDecodeFault := by
  refine fun s b => ⟨fun ⟨hs, h0⟩ hx hb => ?_, fun ⟨hs, h0, h1⟩ hb => ?_⟩
  · have hd : s.fetchDecode = .error { table := .normal, byte := b } := by
      rw [State.fetchDecode, h0]
      exact ((unassignedBytesAreTheListed b _ _).1 hx).mpr hb
    exact step_of_fetchDecode_error hs hd
  · have hd : s.fetchDecode = .error { table := .extended, byte := b } := by
      rw [State.fetchDecode, h0, h1]
      exact (unassignedBytesAreTheListed 0xCB b _).2.mpr hb
    exact step_of_fetchDecode_error hs hd

/-! ## The increment -/

/-- Settles O37: the flags of `inc8` are their definitions, and `inc8_h` gives the second form of the half-carry. -/
theorem incrementFunction : Obligations.IncrementFunction := fun v =>
  ⟨BitVec.toNat_add v 1, decide_eq_true_iff, rfl, decide_eq_true_iff, by rw [inc8_h, decide_eq_true_iff]⟩

/-! ## The rotate through carry -/

/-- R111's first line: bits 6 to 0, then the incoming carry. -/
theorem rl9_res (v : Byte) (cin : Bool) : (rl9 v cin).res = v.extractLsb' 0 7 ++ BitVec.ofBool cin := by
  change v <<< 1 ||| carryByte cin = BitVec.concat (v.extractLsb' 0 7) cin
  ext i hi
  cases i with
  | zero => cases cin <;> simp [carryByte]
  | succ i => cases cin <;> simp [carryByte, BitVec.getLsbD_eq_getElem (Nat.lt_of_succ_lt hi)]

theorem rl9_res_zero (v : Byte) (cin : Bool) : (rl9 v cin).res[(0 : Fin 8)] = cin := by
  rw [rl9_res]
  exact BitVec.getElem_concat_zero

theorem rl9_res_succ (v : Byte) (cin : Bool) (k : Fin 7) : (rl9 v cin).res[k.succ] = v[k.castSucc] := by
  rw [rl9_res]
  exact (BitVec.getElem_concat_succ (Nat.succ_lt_succ k.isLt)).trans
    (by simp [BitVec.getLsbD_eq_getElem (Nat.lt_succ_of_lt k.isLt)])

/-- `rl9` as a map on a byte and a carry. -/
def rotate9 (p : Byte × Bool) : Byte × Bool := ((rl9 p.1 p.2).res, (rl9 p.1 p.2).c)

/-- The bits of the 9-bit quantity of R111, the carry above the byte. -/
def bit9 (p : Byte × Bool) (k : Fin 9) : Bool := (BitVec.cons p.2 p.1)[k]

theorem bit9_last (p : Byte × Bool) : bit9 p (Fin.last 8) = p.2 := by
  simp [bit9, BitVec.getElem_cons]

theorem bit9_castSucc (p : Byte × Bool) (k : Fin 8) : bit9 p k.castSucc = p.1[k] := by
  simp [bit9, BitVec.getElem_cons, k.isLt.ne]

theorem bit9_injective : Function.Injective bit9 := by
  intro p q h
  refine Prod.ext (BitVec.eq_of_getElem_eq fun i hi => ?_) ?_
  · have hk := congrFun h (Fin.castSucc ⟨i, hi⟩)
    rwa [bit9_castSucc, bit9_castSucc] at hk
  · rw [← bit9_last, h, bit9_last]

theorem succ_sub_one_eq_castSucc (k : Fin 8) : k.succ - 1 = k.castSucc := by decide +revert

/-- The rotation moves every bit one place up, cyclically: `0 - 1` in `Fin 9` is the carry's place. -/
theorem bit9_rotate9 (p : Byte × Bool) (k : Fin 9) : bit9 (rotate9 p) k = bit9 p (k - 1) := by
  cases k using Fin.cases with
  | zero => exact (bit9_castSucc (rotate9 p) 0).trans ((rl9_res_zero p.1 p.2).trans (bit9_last p).symm)
  | succ k =>
    rw [succ_sub_one_eq_castSucc, bit9_castSucc]
    cases k using Fin.lastCases with
    | last => exact bit9_last (rotate9 p)
    | cast k => exact (bit9_castSucc (rotate9 p) k.succ).trans (rl9_res_succ p.1 p.2 k)

theorem rotate9_iterate_nine (p : Byte × Bool) : rotate9^[9] p = p := by
  refine bit9_injective (funext fun k => ?_)
  have hk : k - 1 - 1 - 1 - 1 - 1 - 1 - 1 - 1 - 1 = k := by decide +revert
  simp only [Function.iterate_succ_apply', Function.iterate_zero_apply, bit9_rotate9, hk]

theorem rotate9_rotate9_iterate_eight (p : Byte × Bool) : rotate9 (rotate9^[8] p) = p :=
  (Function.iterate_succ_apply' rotate9 8 p).symm.trans (rotate9_iterate_nine p)

/-- Eight more rotations undo one. -/
theorem rotate9_bijective : Function.Bijective rotate9 :=
  Function.bijective_iff_has_inverse.mpr ⟨rotate9^[8], rotate9_iterate_nine, rotate9_rotate9_iterate_eight⟩

theorem rotate9_iterate_eight_eq_self_iff (p : Byte × Bool) : rotate9^[8] p = p ↔ rotate9 p = p := by
  refine ⟨fun h => ?_, fun h => Function.iterate_fixed h 8⟩
  calc rotate9 p = rotate9 (rotate9^[8] p) := by rw [h]
    _ = p := rotate9_rotate9_iterate_eight p

theorem bit9_zeros (k : Fin 9) : bit9 (0x00, false) k = false := by decide +revert

theorem bit9_ones (k : Fin 9) : bit9 (0xFF, true) k = true := by decide +revert

/-- Each bit of a pair that one rotation keeps is the bit below it, so all nine are the carry. -/
theorem bit9_eq_carry_of_rotate9_eq_self {p : Byte × Bool} (h : rotate9 p = p) (k : Fin 9) : bit9 p k = p.2 := by
  have hstep (j : Fin 9) : bit9 p j = bit9 p (j - 1) := by rw [← bit9_rotate9, h]
  induction k using Fin.induction with
  | zero => exact (hstep 0).trans (bit9_last p)
  | succ k ih => rw [hstep, succ_sub_one_eq_castSucc, ih]

theorem rotate9_eq_self_iff (p : Byte × Bool) : rotate9 p = p ↔ p = (0x00, false) ∨ p = (0xFF, true) := by
  constructor
  · intro h
    cases hc : p.2 with
    | false => exact .inl (bit9_injective (funext fun k => by rw [bit9_eq_carry_of_rotate9_eq_self h, hc, bit9_zeros]))
    | true => exact .inr (bit9_injective (funext fun k => by rw [bit9_eq_carry_of_rotate9_eq_self h, hc, bit9_ones]))
  · rintro (rfl | rfl) <;> rfl

/-- Settles O38: `rl9` rotates nine bits, so nine rotations are none, and eight that change nothing leave one that changes nothing. -/
theorem rotateHasPeriodNine : Obligations.RotateHasPeriodNine :=
  ⟨fun v cin => ⟨rl9_res v cin, BitVec.msb_eq_getLsbD_last v, decide_eq_true_iff, rfl, rfl⟩, rotate9_bijective,
    rotate9_iterate_nine, fun p => (rotate9_iterate_eight_eq_self_iff p).trans (rotate9_eq_self_iff p)⟩

end Sys2Proof.Machine
end

section
/-! PROOFS. No-op and immediate loads (41_nop_and_immediate_loads.md R120 to R131): a step at an assigned byte 0 runs the
instruction of its row, so each statement comes down to the state the instruction itself completes in. -/

namespace Sys2Proof.Machine

open Sys2Proof.Claims

/-! ## A step at a byte of the Normal table -/

/-- A running machine at an assigned byte 0 runs its row, built from the two bytes after it (40_fetch_decode_execute.md R102). -/
theorem step_of_atOpcode {s : State} {b0 : Byte} {r : Row} (hr : lookupByte b0 normalTable = some r) (hs : AtOpcode s b0) :
    step s = exec (r.build (s.readByte (s.pc + 1)) (s.readByte (s.pc + 2))) s := by
  obtain ⟨hrun, h0⟩ := hs
  have hd : s.fetchDecode = .ok (r.build (s.readByte (s.pc + 1)) (s.readByte (s.pc + 2))) := by
    rw [State.fetchDecode, h0, decodeBytes_of_normal hr]
  exact step_of_fetchDecode hrun hd

/-- Format N1: the row is the instruction (30_encoding.md R81). -/
theorem runsN1_of_exec {b0 : Byte} {i : Instr} {t : State → State} (hr : lookupByte b0 normalTable = some (.bare i))
    (he : ∀ s, exec i s = .next (t s)) : RunsN1 b0 i t := fun s =>
  ⟨he s, fun hs => (step_of_atOpcode hr hs).trans (he s)⟩

/-- Format N2: the row takes byte 1 (30_encoding.md R83). -/
theorem runsN2_of_exec {b0 : Byte} {mk : Byte → Instr} {t : State → Byte → State}
    (hr : lookupByte b0 normalTable = some (.withByte mk)) (he : ∀ s v, exec (mk v) s = .next (t s v)) : RunsN2 b0 mk t :=
  fun s => ⟨he s, fun hs => (step_of_atOpcode hr hs).trans (he s _)⟩

/-- Format N3: the row takes bytes 1 and 2 as `operandWord` has them, low byte first (30_encoding.md R84). -/
theorem runsN3_of_exec {b0 : Byte} {mk : Word → Instr} {t : State → Word → State}
    (hr : lookupByte b0 normalTable = some (.withWord mk)) (he : ∀ s w, exec (mk w) s = .next (t s w)) : RunsN3 b0 mk t :=
  fun s => ⟨he s, fun hs => (step_of_atOpcode hr hs).trans (he s (operandWord s))⟩

/-! ## The instructions -/

/-- Settles O21: NOP is nothing but the end of an instruction, of length 1 and cost 4. -/
theorem nopAdvancesPc : Obligations.NopAdvancesPc := runsN1_of_exec rfl fun _ => rfl

/-- Settles O22: the row at 0x31 is LD SP,d16, and the stack pointer is one field of the state. -/
theorem loadStackPointer : Obligations.LoadStackPointer := runsN3_of_exec rfl fun _ _ => rfl

/-- The write of a pair and the end of its load: both halves of the operand in their registers. -/
theorem finish_writePair (s : State) (p : Pair) (w : Word) :
    (s.writePair p w).finish 3 cyclesLoadWord =
      { (s.writeReg p.high (hi w)).writeReg p.low (lo w) with cyc := 12, pc := s.pc + 3 } := by
  rw [State.finish, writePair_pc]
  rfl

/-- Settles O23: each row's load writes its own pair. -/
theorem immediatePairLoads : Obligations.ImmediatePairLoads :=
  ⟨runsN3_of_exec rfl fun s w => congrArg Host.Outcome.next (finish_writePair s .bc w),
    runsN3_of_exec rfl fun s w => congrArg Host.Outcome.next (finish_writePair s .de w),
    runsN3_of_exec rfl fun s w => congrArg Host.Outcome.next (finish_writePair s .hl w)⟩

/-- The write of a register and the end of its load. -/
theorem finish_writeReg (s : State) (r : Reg) (v : Byte) :
    (s.writeReg r v).finish 2 cyclesLoadByte = { s.writeReg r v with cyc := 8, pc := s.pc + 2 } := by
  rw [State.finish, writeReg_pc]
  rfl

/-- Settles O24: each row's load writes its own register. -/
theorem immediateByteLoads : Obligations.ImmediateByteLoads :=
  ⟨runsN2_of_exec rfl fun s v => congrArg Host.Outcome.next (finish_writeReg s .b v),
    runsN2_of_exec rfl fun s v => congrArg Host.Outcome.next (finish_writeReg s .c v),
    runsN2_of_exec rfl fun s v => congrArg Host.Outcome.next (finish_writeReg s .d v),
    runsN2_of_exec rfl fun s v => congrArg Host.Outcome.next (finish_writeReg s .e v),
    runsN2_of_exec rfl fun s v => congrArg Host.Outcome.next (finish_writeReg s .h v),
    runsN2_of_exec rfl fun s v => congrArg Host.Outcome.next (finish_writeReg s .l v),
    runsN2_of_exec rfl fun s v => congrArg Host.Outcome.next (finish_writeReg s .a v)⟩

end Sys2Proof.Machine
end

section
/-! PROOFS. The accumulator to and from memory (42_accumulator_memory.md R140 to R148): a store is one `writeByte` and the end of
the instruction, a load one `readByte`; the high-page addresses are the byte pair 0xFF, offset. -/

namespace Sys2Proof.Machine

open Sys2Proof.Claims

/-! ## The end of a store and of a load -/

/-- A byte write leaves the pc to the end of the instruction (40_fetch_decode_execute.md R104 (d)). -/
theorem finish_store (s : State) (a : Word) (v : Byte) (len : Word) (cost : CycleCount) :
    (s.writeByte a v).finish len cost = { s.writeByte a v with cyc := cost, pc := s.pc + len } :=
  finish_eq_of len cost rfl (writeByte_pc s a v)

/-- The byte write, then the write of HL, which leaves the pc alone too. -/
theorem finish_store_writePair_hl (s : State) (a : Word) (v : Byte) (w : Word) (len : Word) (cost : CycleCount) :
    ((s.writeByte a v).writePair .hl w).finish len cost =
      { s.writeByte a v with h := hi w, l := lo w, cyc := cost, pc := s.pc + len } :=
  finish_eq_of len cost rfl ((writePair_pc (s.writeByte a v) .hl w).trans (writeByte_pc s a v))

/-- A load through a pair reads at the pair's two registers, the first-named one the high half (10_state.md R13). -/
theorem finish_load (s : State) (p : Pair) :
    (s.writeReg .a (s.readByte (s.pairAddr p))).finish 1 cyclesLoadPair =
      { s with a := s.readByte (s.readReg p.high ++ s.readReg p.low), cyc := 8, pc := s.pc + 1 } := rfl

/-! ## The high page -/

/-- The address of LDH (a8),A is the byte pair 0xFF, offset (20_memory.md R41). -/
theorem highPageImmAddr_eq (off : Byte) : highPageImmAddr off = (0xFF : Byte) ++ off := by
  obtain ⟨-, hpage, -⟩ := unsignedOffsetAdditionWraps
  exact hpage off

/-- The address of LD (0xFF00+C),A is the same with C as the offset. -/
theorem highPageRegAddr_eq (s : State) : s.highPageRegAddr = (0xFF : Byte) ++ s.c := highPageImmAddr_eq s.c

/-! ## The instructions -/

/-- Settles O25: each row's store is the byte write at its own pair, then the end of an instruction of length 1 and cost 8. -/
theorem pairStores : Obligations.PairStores :=
  ⟨runsN1_of_exec rfl fun s => congrArg Host.Outcome.next (finish_store s (s.pairAddr .bc) s.a 1 cyclesStorePair),
    runsN1_of_exec rfl fun s => congrArg Host.Outcome.next (finish_store s (s.pairAddr .de) s.a 1 cyclesStorePair),
    runsN1_of_exec rfl fun s => congrArg Host.Outcome.next (finish_store s (s.pairAddr .hl) s.a 1 cyclesStorePair)⟩

/-- Settles O26: the address of the store and the word that is decremented are both HL before the instruction. -/
theorem storeAndDecrement : Obligations.StoreAndDecrement :=
  runsN1_of_exec rfl fun s => congrArg Host.Outcome.next
    (finish_store_writePair_hl s (s.pairAddr .hl) s.a (s.pairAddr .hl - 1) 1 cyclesStorePair)

/-- Settles O27: each row's load reads at its own pair. -/
theorem pairLoads : Obligations.PairLoads :=
  ⟨runsN1_of_exec rfl fun s => congrArg Host.Outcome.next (finish_load s .bc),
    runsN1_of_exec rfl fun s => congrArg Host.Outcome.next (finish_load s .de),
    runsN1_of_exec rfl fun s => congrArg Host.Outcome.next (finish_load s .hl)⟩

/-- Settles O28: both stores are byte writes in the high page, at the offset C and at the operand byte. -/
theorem highPageStores : Obligations.HighPageStores := by
  refine ⟨runsN1_of_exec rfl fun s => ?_, runsN2_of_exec rfl fun s v => ?_⟩
  · rw [← highPageRegAddr_eq]
    exact congrArg Host.Outcome.next (finish_store s s.highPageRegAddr s.a 1 cyclesHighPageReg)
  · rw [← highPageImmAddr_eq]
    exact congrArg Host.Outcome.next (finish_store s (highPageImmAddr v) s.a 2 cyclesHighPageImm)

end Sys2Proof.Machine
end

section
/-! PROOFS. Self-XOR, increments, rotates and the bit test (43_alu_and_bit.md R160 to R176): each is at most one register write,
then flag writes that give F bit by bit; the rest is the end of the instruction. -/

namespace Sys2Proof.Machine

open Sys2Proof.Claims

/-! ## A step at 0xCB and a byte of the Extended table -/

/-- Format X2: the row is the instruction (30_encoding.md R85). -/
theorem runsX2_of_exec {b1 : Byte} {i : Instr} {t : State → State} (hr : lookupByte b1 extendedTable = some i)
    (he : ∀ s, exec i s = .next (t s)) : RunsX2 b1 i t :=
  fun s => ⟨he s, fun ⟨hrun, h0, h1⟩ => (step_extended hrun h0 h1 hr).trans (he s)⟩

/-! ## The flag writes as one write of F -/

/-- One flag write clears its bit of F, then puts the value there (00_scope.md R7). -/
theorem setFlag_f_eq_or (s : State) (fl : Flag) (v : Bool) :
    (s.setFlag fl v).f = (s.f &&& ~~~fl.mask) ||| (if v then fl.mask else 0) := by
  cases v with
  | true =>
    have hset : ∀ f : Byte, f ||| fl.mask = (f &&& ~~~fl.mask) ||| fl.mask := by cases fl <;> decide
    exact hset s.f
  | false => exact BitVec.or_zero.symm

/-- A flag's bit passes a mask that has it: the later writes do not clear the earlier ones' bits. -/
theorem ite_and_of_and_eq {v : Bool} {bit mask : Byte} (h : bit &&& mask = bit) :
    (if v then bit else 0#8) &&& mask = if v then bit else 0#8 := by
  cases v with
  | true => exact h
  | false => exact BitVec.zero_and

/-- The writes of Z, N and H: F's bits 7 to 5 are theirs, bits 4 to 0 are kept. -/
theorem setFlags_flagsZNH (s : State) (o : AluOut) :
    s.setFlags (flagsZNH o) = { s with f := (s.f &&& 0x1F) ||| (if o.z then 0x80 else 0) ||| (if o.n then 0x40 else 0) |||
      (if o.h then 0x20 else 0) } := by
  refine congrArg (fun f => { s with f := f }) (show (s.setFlags (flagsZNH o)).f = _ from ?_)
  simp only [State.setFlags, flagsZNH, List.foldl, setFlag_f_eq_or, Flag.mask]
  simp [BitVec.and_or_distrib_right, BitVec.and_assoc, ite_and_of_and_eq]

/-- The writes of all four flags: F's bits 7 to 4 are theirs, bits 3 to 0 are kept. -/
theorem setFlags_flagsZNHC (s : State) (o : AluOut) :
    s.setFlags (flagsZNHC o) = { s with f := (s.f &&& 0x0F) ||| (if o.z then 0x80 else 0) ||| (if o.n then 0x40 else 0) |||
      (if o.h then 0x20 else 0) ||| (if o.c then 0x10 else 0) } := by
  have hznhc : s.setFlags (flagsZNHC o) = (s.setFlags (flagsZNH o)).setFlag .c o.c := rfl
  refine congrArg (fun f => { s with f := f }) (show (s.setFlags (flagsZNHC o)).f = _ from ?_)
  rw [hznhc, setFlag_f_eq_or, setFlags_flagsZNH, Flag.mask]
  simp [BitVec.and_or_distrib_right, BitVec.and_assoc, ite_and_of_and_eq]

/-! ## The ALU functions in the words of the statements -/

/-- The half-carry of an increment: the old low nibble is all ones (40_fetch_decode_execute.md R110). -/
theorem inc8_h_eq_lowNibble (v : Byte) : (inc8 v).h = decide (v &&& 0x0F = 0x0F) := by revert v; decide

theorem inc8_eq (v : Byte) :
    inc8 v = { res := v + 1, z := decide (v + 1 = 0), n := false, h := decide (v &&& 0x0F = 0x0F), c := false } := by
  rw [← inc8_h_eq_lowNibble]
  rfl

/-- The carry that enters is bit 4 of F, the one that leaves is bit 7 of the operand (40_fetch_decode_execute.md R111). -/
theorem rl9_flag_c (s : State) (v : Byte) :
    rl9 v (s.flag .c) =
      { res := rotated s.f v, z := decide (rotated s.f v = 0), n := false, h := false, c := v.getLsbD 7 } := by
  have hres : rotated s.f v = (rl9 v (s.flag .c)).res := (rl9_res v (s.flag .c)).symm
  have hc : v.getLsbD 7 = v.msb := (BitVec.msb_eq_getLsbD_last v).symm
  rw [hres, hc]
  rfl

theorem bit7_eq (v : Byte) : bit7 v = { res := v, z := !v.getLsbD 7, n := false, h := true, c := false } := by
  rw [bit7, BitVec.msb_eq_getLsbD_last]

theorem xorSelf_eq (v : Byte) : xorSelf v = { res := 0, z := true, n := false, h := false, c := false } := by
  rw [xorSelf, BitVec.xor_self]
  rfl

/-! ## The register and flag effects, every other field kept -/

theorem incReg_eq (s : State) {r : Reg} (hr : r ≠ .f) :
    s.incReg r = { s.writeReg r (s.readReg r + 1) with f := fAfterInc s.f (s.readReg r) } := by
  have hwrites : s.incReg r = (s.writeReg r (s.readReg r + 1)).setFlags (flagsZNH (inc8 (s.readReg r))) := rfl
  rw [hwrites, inc8_eq, setFlags_flagsZNH, f_writeReg_operand s _ hr]
  simp [fAfterInc]

theorem rotateReg_eq (s : State) {r : Reg} (hr : r ≠ .f) :
    s.rotateReg r = { s.writeReg r (rotated s.f (s.readReg r)) with f := fAfterRotate s.f (s.readReg r) } := by
  have hwrites : s.rotateReg r = (s.writeReg r (rl9 (s.readReg r) (s.flag .c)).res).setFlags
    (flagsZNHC (rl9 (s.readReg r) (s.flag .c))) := rfl
  rw [hwrites, rl9_flag_c, setFlags_flagsZNHC, f_writeReg_operand s _ hr]
  simp [fAfterRotate]

theorem testBit7_eq (s : State) (r : Reg) : s.testBit7 r = { s with f := fAfterBit s.f (s.readReg r) } := by
  have hwrites : s.testBit7 r = s.setFlags (flagsZNH (bit7 (s.readReg r))) := rfl
  rw [hwrites, bit7_eq, setFlags_flagsZNH, fAfterBit]
  cases (s.readReg r).getLsbD 7 <;> simp [BitVec.or_assoc]

theorem xorAcc_retain_eq (s : State) : s.xorAcc .retain = { s with a := 0, f := s.f ||| 0x80 } := xorAcc_retain s

theorem xorAcc_clear_eq (s : State) : s.xorAcc .clear = { s with a := 0, f := (s.f &&& 0x0F) ||| 0x80 } := by
  have hwrites : s.xorAcc .clear = (s.writeReg .a (xorSelf s.a).res).setFlags (flagsZNHC (xorSelf s.a)) := rfl
  rw [hwrites, xorSelf_eq, setFlags_flagsZNHC]
  simp

/-! ## The end of the instruction -/

/-- Length 1 and cost 4 are decision D5. -/
theorem finish_incReg (s : State) (r : Reg) (hr : r ≠ .f) :
    (s.incReg r).finish 1 cyclesInc =
      { s.writeReg r (s.readReg r + 1) with f := fAfterInc s.f (s.readReg r), cyc := 4, pc := s.pc + 1 } := by
  rw [State.finish, incReg_pc, incReg_eq s hr]
  rfl

/-- RLA and RL r differ in length and cost only. -/
theorem finish_rotateReg (s : State) (r : Reg) (hr : r ≠ .f) (len : Word) (cost : CycleCount) :
    (s.rotateReg r).finish len cost =
      { s.writeReg r (rotated s.f (s.readReg r)) with f := fAfterRotate s.f (s.readReg r), cyc := cost, pc := s.pc + len } := by
  rw [State.finish, rotateReg_pc, rotateReg_eq s hr]

/-! ## The instructions -/

/-- Settles O30: each row's increment is that of its own register. -/
theorem increments : Obligations.Increments :=
  ⟨runsN1_of_exec rfl fun s => congrArg Host.Outcome.next (finish_incReg s .b nofun),
    runsN1_of_exec rfl fun s => congrArg Host.Outcome.next (finish_incReg s .c nofun),
    runsN1_of_exec rfl fun s => congrArg Host.Outcome.next (finish_incReg s .d nofun),
    runsN1_of_exec rfl fun s => congrArg Host.Outcome.next (finish_incReg s .e nofun),
    runsN1_of_exec rfl fun s => congrArg Host.Outcome.next (finish_incReg s .h nofun),
    runsN1_of_exec rfl fun s => congrArg Host.Outcome.next (finish_incReg s .l nofun),
    runsN1_of_exec rfl fun s => congrArg Host.Outcome.next (finish_incReg s .a nofun)⟩

/-- Settles O31: RLA rotates A in the Normal table's length and cost, each extended row its own register. -/
theorem rotates : Obligations.Rotates :=
  ⟨runsN1_of_exec rfl fun s => congrArg Host.Outcome.next (finish_rotateReg s .a nofun 1 cyclesRla),
    runsX2_of_exec rfl fun s => congrArg Host.Outcome.next (finish_rotateReg s .b nofun 2 cyclesRl),
    runsX2_of_exec rfl fun s => congrArg Host.Outcome.next (finish_rotateReg s .c nofun 2 cyclesRl),
    runsX2_of_exec rfl fun s => congrArg Host.Outcome.next (finish_rotateReg s .d nofun 2 cyclesRl),
    runsX2_of_exec rfl fun s => congrArg Host.Outcome.next (finish_rotateReg s .e nofun 2 cyclesRl),
    runsX2_of_exec rfl fun s => congrArg Host.Outcome.next (finish_rotateReg s .h nofun 2 cyclesRl),
    runsX2_of_exec rfl fun s => congrArg Host.Outcome.next (finish_rotateReg s .l nofun 2 cyclesRl),
    runsX2_of_exec rfl fun s => congrArg Host.Outcome.next (finish_rotateReg s .a nofun 2 cyclesRl)⟩

/-- Settles O29: this hardware's XOR A is the effect under `retain`, then the end of the instruction. -/
theorem xorAClearsAccumulator : Obligations.XorAClearsAccumulator :=
  ⟨runsN1_of_exec rfl fun s => congrArg Host.Outcome.next (congrArg (·.finish 1 cyclesXor) (xorAcc_retain_eq s)),
    fun s => ⟨xorAcc_retain_eq s, xorAcc_clear_eq s⟩⟩

/-- Settles O32: the bit test is a write of F, then the end of the instruction. -/
theorem bitTestOfH : Obligations.BitTestOfH :=
  runsX2_of_exec rfl fun s => congrArg Host.Outcome.next (congrArg (·.finish 2 cyclesBit) (testBit7_eq s .h))

end Sys2Proof.Machine
end

section
/-! PROOFS. The conditional jump, the stack and the call (44_control_and_stack.md R190 to R205): a push is two byte writes and the
sp, a pop two byte reads and the sp; a word pushed inside high RAM is the word the next pop takes. -/

namespace Sys2Proof.Machine

open Sys2Proof.Claims

/-! ## The instructions -/

/-- Settles O33: the model asks the Z flag, which is bit 7 of F. -/
theorem jumpIfNotZero : Obligations.JumpIfNotZero :=
  runsN2_of_exec rfl fun s off => by
    have hz : s.f.getLsbD 7 = s.flag .z := rfl
    simp only [exec, execJrNZ, hz]
    cases s.flag .z with
    | false => rfl
    | true => rfl

/-- Settles O34: each row's push writes its own pair, the first-named register first. -/
theorem pushes : Obligations.Pushes :=
  ⟨runsN1_of_exec rfl fun s => congrArg Host.Outcome.next (finish_push_readPair s .bc 1 cyclesPush),
    runsN1_of_exec rfl fun s => congrArg Host.Outcome.next (finish_push_readPair s .de 1 cyclesPush),
    runsN1_of_exec rfl fun s => congrArg Host.Outcome.next (finish_push_readPair s .hl 1 cyclesPush)⟩

/-- The write of the word at the sp to a pair: the byte at sp + 1 is the word's high half. -/
theorem writePair_top (s : State) (p : Pair) :
    s.writePair p s.top = (s.writeReg p.high (s.readByte (s.sp + 1))).writeReg p.low (s.readByte s.sp) := by
  rw [State.writePair, State.top, State.readWord, highByte_wordFromBytes, lowByte_wordFromBytes]

theorem finish_pop (s : State) (p : Pair) :
    (s.writePair p s.top).dropWord.finish 1 cyclesPop =
      { (s.writeReg p.high (s.readByte (s.sp + 1))).writeReg p.low (s.readByte s.sp) with
        sp := s.sp + 2, cyc := 12, pc := s.pc + 1 } := by
  rw [State.finish, dropWord_pc, writePair_pc, State.dropWord, writePair_sp, writePair_top]
  rfl

/-- Settles O35: each row's pop writes its own pair. -/
theorem pops : Obligations.Pops :=
  ⟨runsN1_of_exec rfl fun s => congrArg Host.Outcome.next (finish_pop s .bc),
    runsN1_of_exec rfl fun s => congrArg Host.Outcome.next (finish_pop s .de),
    runsN1_of_exec rfl fun s => congrArg Host.Outcome.next (finish_pop s .hl)⟩

/-- Settles O36: the call pushes the address of the following instruction, then jumps to its operand. -/
theorem call : Obligations.Call :=
  runsN3_of_exec rfl fun s target => congrArg Host.Outcome.next
    (congrArg (·.jump target cyclesCall) (push_eq_writeBytes s (s.following 3)))

/-! ## A push, then a pop -/

theorem exec_pushOf (s : State) (p : Pair) : exec (pushOf p) s = .next ((s.push (s.readPair p)).finish 1 cyclesPush) := by
  cases p <;> rfl

theorem exec_popOf (s : State) (p : Pair) : exec (popOf p) s = .next ((s.writePair p s.top).dropWord.finish 1 cyclesPop) := by
  cases p <;> rfl

/-- From 0xFF82 on both bytes of a push lie in high RAM, so the word is there to be popped (R256). -/
theorem top_push (s : State) (w : Word) (hsp : 0xFF82 ≤ s.sp.toNat) : (s.push w).top = w := by
  have hhigh : InHighRam (s.sp - 1) := by unfold InHighRam; bv_omega
  have hlow : InHighRam (s.sp - 1 - 1) := by unfold InHighRam; bv_omega
  have haddr : s.sp - 2 = s.sp - 1 - 1 := by bv_omega
  obtain ⟨hread, -⟩ := wordWrittenReadsBackBelow s (s.sp - 1) w
  calc (s.push w).top
      = (s.writeWordDesc (s.sp - 1) w).readWord (s.sp - 2) := rfl
    _ = (s.writeWordDesc (s.sp - 1) w).readWord (s.sp - 1 - 1) := by rw [haddr]
    _ = w := hread hhigh hlow

theorem readPair_dropWord_finish (s : State) (p : Pair) (len : Word) (cost : CycleCount) :
    (s.dropWord.finish len cost).readPair p = s.readPair p := by
  simp only [State.readPair, readReg_finish, readReg_dropWord]

/-- Settles O52: the popped word is the pushed one, and the sp goes two down, then two up. -/
theorem pushThenPop : Obligations.PushThenPop := by
  intro s t u p q hsp hpush hpop
  rw [exec_pushOf] at hpush
  obtain rfl := Host.Outcome.next.inj hpush
  rw [exec_popOf] at hpop
  obtain rfl := Host.Outcome.next.inj hpop
  constructor
  · rw [readPair_dropWord_finish, readPair_writePair]
    exact top_push s (s.readPair p) hsp
  · rw [finish_sp, dropWord_sp, writePair_sp, finish_sp, push_sp, BitVec.sub_add_cancel]

end Sys2Proof.Machine
end

section
/-! PROOFS. The decode fault (60_exceptions.md section 1): it is a function of the one or two bytes that select a row, and it
leaves the host's reset as the only way on. -/

namespace Sys2Proof.Machine

open Sys2Proof.Claims

/-! ## What a refused encoding depends on -/

/-- The two ways three bytes are refused (60_exceptions.md R215): the first byte selects the table, and the offending byte is
the one looked up there. -/
theorem decodeBytes_error_cases {b0 b1 b2 : Byte} {u : Unassigned} (h : decodeBytes b0 b1 b2 = .error u) :
    (b0 = extensionByte ∧ u = { table := .extended, byte := b1 }) ∨
      (b0 ≠ extensionByte ∧ u = { table := .normal, byte := b0 }) := by
  simp only [decodeBytes, decodeWith] at h
  split at h
  · next hx =>
    split at h
    · cases h
    · exact .inl ⟨hx, (Except.error.inj h).symm⟩
  · next hx =>
    split at h
    · cases h
    · exact .inr ⟨hx, (Except.error.inj h).symm⟩

/-- A byte the selected table does not look up plays no part in a refusal. -/
theorem decodeBytes_error_congr {b0 b1 b1' b2 : Byte} {u : Unassigned} (h1 : b0 = extensionByte → b1 = b1') (b2' : Byte)
    (h : decodeBytes b0 b1 b2 = .error u) : decodeBytes b0 b1' b2' = .error u := by
  obtain ⟨rfl, rfl⟩ | ⟨hx, rfl⟩ := decodeBytes_error_cases h
  · obtain rfl := h1 rfl
    rw [decodeBytes_eq_extended_error_iff] at h ⊢
    exact h
  · rw [decodeBytes_eq_normal_error_iff hx] at h ⊢
    exact h

/-- Settles O19: the second machine's bytes are refused alike, and each machine is running. -/
theorem faultDependsOnFetchedBytesAlone : Obligations.FaultDependsOnFetchedBytesAlone := by
  intro s s' u hs hs' h0 h1 hd
  have hd' : s'.fetchDecode = .error u := by
    rw [State.fetchDecode, ← h0]
    exact decodeBytes_error_congr h1 _ hd
  exact ⟨step_of_fetchDecode_error hs hd, step_of_fetchDecode_error hs' hd'⟩

/-! ## A faulted machine -/

theorem step_of_faulted {s : State} {r : FaultRecord} (hs : s.status = .faulted r) : step s = .fault (.stopped r) := by
  simp only [step, hs]

/-- A sequence of moves ends at a first move that is a step not enabled. -/
theorem hostMoves_step_cons_of_fault {s : State} {e : Fault} (h : step s = .fault e) (ms : List HostMove) :
    s.hostMoves (.step :: ms) = .fault e := by
  simp only [State.hostMoves, State.hostMove, h]

/-- Settles O20: the first step of any sequence is already the stop, and the reset writes the status and every register. -/
theorem faultedMachineTakesNoStep : Obligations.FaultedMachineTakesNoStep := by
  intro s r hs
  have hstop : step s = .fault (.stopped r) := step_of_faulted hs
  exact ⟨hstop, fun n => hostMoves_step_cons_of_fault hstop (List.replicate n .step),
    s.cpuReset, rfl, rfl, rfl, readReg_cpuReset s⟩

end Sys2Proof.Machine
end

section
/-! PROOFS. The host's load of a cartridge image (70_reset_and_hazards.md R246): what the machine then holds, and that the rest
of it, the invariant with it, stays as it was. -/

namespace Sys2Proof.Machine

open Sys2Proof.Claims

/-- The state with the first 32 KiB of an image in its cartridge; `loadRom_of_length_ge` ties it to `State.loadRom`. -/
def State.withImage (s : State) (image : List Byte) : State :=
  { s with cartRom := memOfImage .cart 0 (image.take 32768) }

theorem loadRom_of_length_ge (s : State) {image : List Byte} (h : 32768 ≤ image.length) :
    s.loadRom image = some (s.withImage image) := if_pos h

theorem loadRom_of_length_lt (s : State) {image : List Byte} (h : image.length < 32768) :
    s.loadRom image = none := if_neg (Nat.not_le.mpr h)

/-- The addresses of the cartridge lie before the cut at 32 KiB, so the kept part of the image has their bytes. -/
theorem cartByte_withImage (s : State) {image : List Byte} {a : Word} {v : Byte} (ha : a.toNat ≤ 0x7FFF)
    (hv : image[a.toNat]? = some v) : cartByte (s.withImage image) a = v := by
  have hkept : (image.take 32768)[a.toNat]? = some v := (List.getElem?_take_of_lt (by omega)).trans hv
  have hread := memGet_memOfImage .cart 0 a.toNat (image.take 32768) v hkept
  rw [Nat.zero_add] at hread
  exact hread

/-- However long the image is, its kept part fits the cartridge. -/
theorem withImage_cartRom_wf (s : State) (image : List Byte) : Memory.wf .cart (s.withImage image).cartRom = true := by
  have hfits : 0 + (image.take 32768).length ≤ Store.cart.last + 1 := by
    rw [Nat.zero_add]
    exact List.length_take_le 32768 image
  exact memOfImage_wf .cart 0 (image.take 32768) hfits

theorem withImage_inv {s : State} (image : List Byte) (h : Inv s) : Inv (s.withImage image) where
  memory := by
    obtain ⟨hboot, -, hhram⟩ := h.memory
    exact ⟨hboot, withImage_cartRom_wf s image, hhram⟩
  flags := h.flags
  trace := h.trace
  record := h.record
  cost := h.cost

/-- Settles O55: the load writes the cartridge alone, with a canonical array that reads back as the image. -/
theorem loadedImageIsVisible : Obligations.LoadedImageIsVisible := by
  intro s image
  refine ⟨loadRom_of_length_lt s, fun hlen => ⟨s.withImage image, loadRom_of_length_ge s hlen, ?_, ?_, rfl, ?_⟩⟩
  · exact fun _ _ ha hv => cartByte_withImage s ha hv
  · exact withImage_cartRom_wf s image
  · exact withImage_inv image

end Sys2Proof.Machine
end
